-- ==== Sys2Proof/Word.lean ====
section
/-!
DEFINITION. The words of the machine: bytes, 64-bit quadwords and addresses, 128-bit lane values,
32-bit micro-operation words, lane numbers and micro-program addresses
(00_scope.md R7 to R10, 10_state.md R20 to R27).
-/

namespace Sys2Proof

/-- One byte of memory, of the seed or of the input. -/
abbrev Byte := BitVec 8

/-- A 64-bit value: a host register, a byte address, a quadword of a lane (R7, R10). -/
abbrev Quad := BitVec 64

/-- A 128-bit value: a lane, an injection register, the digest (R9). -/
abbrev Lane := BitVec 128

/-- A micro-operation word (R80). -/
abbrev UopWord := BitVec 32

/-- A lane number: all eight values name a lane (R83). -/
abbrev LaneNo := BitVec 3

/-- A micro-program address: a value of `pc` or a branch target (R22, R84). -/
abbrev UAddr := BitVec 7

end Sys2Proof
end

