-- ==== Sys2Proof/Syntax.lean ====
section
/-!
DEFINITION. The fourteen micro-operations (30_encoding.md R81, R82), one constructor per row of
spec/opcode_table.json, in the table's order.
-/

namespace Sys2Proof

/-- A micro-operation. The lane fields carry the parameter letters of MIX and SHUFFLE in the order
of the formats `L1`, `L2`, `L5`, `L6`; `t` is the target of format `J` (R81). -/
inductive Instr where
  /-- `SEED a` (R140). -/
  | seed (a : LaneNo)
  /-- `BLK t` (R150). -/
  | blk (t : UAddr)
  /-- `LDC` (R151). -/
  | ldc
  /-- `MIX a,b,c,d,e` (R152). -/
  | mix (a b c d e : LaneNo)
  /-- `JMP t` (R153). -/
  | jmp (t : UAddr)
  /-- `LDP` (R170). -/
  | ldp
  /-- `LDF` (R171). -/
  | ldf
  /-- `INJ` (R172). -/
  | inj
  /-- `LENV` (R173). -/
  | lenv
  /-- `CHK t` (R174). -/
  | chk (t : UAddr)
  /-- `SHUF a,b,c,d,e,f` (R200). -/
  | shuf (a b c d e f : LaneNo)
  /-- `ADDQ a,b` (R201). -/
  | addq (a b : LaneNo)
  /-- `XORV a,b` (R202). -/
  | xorv (a b : LaneNo)
  /-- `FIN` (R203). -/
  | fin
deriving DecidableEq, Repr

end Sys2Proof
end

