-- ==== Sys2Proof/WellFormed.lean ====
section
/-!
DEFINITION. What is legal. Every micro-operation TERM is well formed: all eight values of every lane
field, every combination of them, and all 128 targets are legal (30_encoding.md R83, R84), and the
operand types hold nothing else. What can be ill formed is a WORD: `legalWord` is the mask and match
test of R82, written from the table and not from the decoder. `Instr.scheduled` is the narrower set
the micro-program draws from (R83, R84): it refuses a legal term the schedules do not use.
-/

namespace Sys2Proof

/-- A row of the opcode map (R82). -/
structure OpcodeRow where
  mnemonic : String
  pattern : UopWord
  mask : UopWord
deriving DecidableEq, Repr

/-- The opcode map of R82: mnemonic, match, mask. -/
def opcodeRows : List OpcodeRow :=
  [ ⟨"SEED", 0x10000000#32, 0xFFFFFFF8#32⟩,
    ⟨"BLK",  0x20000000#32, 0xFFFFFF80#32⟩,
    ⟨"LDC",  0x30000000#32, 0xFFFFFFFF#32⟩,
    ⟨"MIX",  0x40000000#32, 0xFFFF8000#32⟩,
    ⟨"JMP",  0x50000000#32, 0xFFFFFF80#32⟩,
    ⟨"LDP",  0x60000000#32, 0xFFFFFFFF#32⟩,
    ⟨"LDF",  0x70000000#32, 0xFFFFFFFF#32⟩,
    ⟨"INJ",  0x80000000#32, 0xFFFFFFFF#32⟩,
    ⟨"LENV", 0x90000000#32, 0xFFFFFFFF#32⟩,
    ⟨"CHK",  0xA0000000#32, 0xFFFFFF80#32⟩,
    ⟨"SHUF", 0xB0000000#32, 0xFFFC0000#32⟩,
    ⟨"ADDQ", 0xC0000000#32, 0xFFFFFFC0#32⟩,
    ⟨"XORV", 0xD0000000#32, 0xFFFFFFC0#32⟩,
    ⟨"FIN",  0xE0000000#32, 0xFFFFFFFF#32⟩ ]

/-- A word belongs to a row exactly when `(w & mask) = match` (R82). -/
def OpcodeRow.accepts (r : OpcodeRow) (w : UopWord) : Bool := w &&& r.mask == r.pattern

/-- A word is legal when it belongs to some row; any other word is illegal (R82, R85). -/
def legalWord (w : UopWord) : Bool := opcodeRows.any (·.accepts w)

/-- The mnemonic of a micro-operation, as the table spells it (R82). -/
def Instr.mnemonic : Instr → String
  | .seed _ => "SEED"
  | .blk _ => "BLK"
  | .ldc => "LDC"
  | .mix _ _ _ _ _ => "MIX"
  | .jmp _ => "JMP"
  | .ldp => "LDP"
  | .ldf => "LDF"
  | .inj => "INJ"
  | .lenv => "LENV"
  | .chk _ => "CHK"
  | .shuf _ _ _ _ _ _ => "SHUF"
  | .addq _ _ => "ADDQ"
  | .xorv _ _ => "XORV"
  | .fin => "FIN"

/-- Well-formedness of a term: nothing to check, since R83 and R84 make every operand value legal. -/
def Instr.wf : Instr → Bool
  | .seed _ => true
  | .blk _ => true
  | .ldc => true
  | .mix _ _ _ _ _ => true
  | .jmp _ => true
  | .ldp => true
  | .ldf => true
  | .inj => true
  | .lenv => true
  | .chk _ => true
  | .shuf _ _ _ _ _ _ => true
  | .addq _ _ => true
  | .xorv _ _ => true
  | .fin => true

/-- The combinations the micro-program uses: pairwise distinct lanes in a MIX and in a SHUF (R83),
the target `0x1A` in a BLK, `0x08` in a JMP, `0x36` in a CHK (R84, R150, R153, R174). -/
def Instr.scheduled : Instr → Bool
  | .seed _ => true
  | .blk t => t == 0x1A#7
  | .ldc => true
  | .mix a b c d e => decide [a, b, c, d, e].Nodup
  | .jmp t => t == 0x08#7
  | .ldp => true
  | .ldf => true
  | .inj => true
  | .lenv => true
  | .chk t => t == 0x36#7
  | .shuf a b c d e f => decide [a, b, c, d, e, f].Nodup
  | .addq a b => a != b
  | .xorv a b => a != b
  | .fin => true

end Sys2Proof
end

