-- ==== Sys2Proof/Decode.lean ====
section
/-!
DEFINITION. The decoder of 30_encoding.md R86, total on every 32-bit word, rejecting an illegal word
by the reason R85 gives, and after it the encoder, written from the "Encoding" lines of the
micro-operations' own rules.
-/

namespace Sys2Proof

/-- Why a word is illegal (R85). -/
inductive Illegal where
  /-- The opcode is 0x0 or 0xF. -/
  | opcode
  /-- The opcode is 0x1 to 0xE and a reserved bit of its format is 1. -/
  | reservedBit
deriving DecidableEq, Repr

/-- `w[31:28]` (R80). -/
def opField (w : UopWord) : BitVec 4 := w.extractLsb' 28 4

/-- The lane field that starts at bit `lo`: `a` at 0, `b` at 3, up to `f` at 15 (R81). -/
def laneField (w : UopWord) (lo : Nat) : LaneNo := w.extractLsb' lo 3

/-- `t = w[6:0]`, an absolute micro-program address (R84). -/
def targetField (w : UopWord) : UAddr := w.extractLsb' 0 7

/-- `w[27:n]`: the reserved bits of a format whose operand fields fill bits `n-1:0` (R81). -/
def reservedField (w : UopWord) (n : Nat) : BitVec (28 - n) := w.extractLsb' n (28 - n)

/-- Accept `i` when the reserved bits `w[27:n]` are 0 (R85). -/
def ifReservedZero (w : UopWord) (n : Nat) (i : Instr) : Except Illegal Instr :=
  if reservedField w n = 0 then .ok i else .error .reservedBit

/-- `decode(w)`, case by case as R86 lists it. -/
def decode (w : UopWord) : Except Illegal Instr :=
  let a := laneField w 0
  let b := laneField w 3
  let c := laneField w 6
  let d := laneField w 9
  let e := laneField w 12
  let f := laneField w 15
  let t := targetField w
  if opField w = 0x1#4 then ifReservedZero w 3 (.seed a)
  else if opField w = 0x2#4 then ifReservedZero w 7 (.blk t)
  else if opField w = 0x3#4 then ifReservedZero w 0 .ldc
  else if opField w = 0x4#4 then ifReservedZero w 15 (.mix a b c d e)
  else if opField w = 0x5#4 then ifReservedZero w 7 (.jmp t)
  else if opField w = 0x6#4 then ifReservedZero w 0 .ldp
  else if opField w = 0x7#4 then ifReservedZero w 0 .ldf
  else if opField w = 0x8#4 then ifReservedZero w 0 .inj
  else if opField w = 0x9#4 then ifReservedZero w 0 .lenv
  else if opField w = 0xA#4 then ifReservedZero w 7 (.chk t)
  else if opField w = 0xB#4 then ifReservedZero w 18 (.shuf a b c d e f)
  else if opField w = 0xC#4 then ifReservedZero w 6 (.addq a b)
  else if opField w = 0xD#4 then ifReservedZero w 6 (.xorv a b)
  else if opField w = 0xE#4 then ifReservedZero w 0 .fin
  else .error .opcode

/-- The field `v` placed so that its bit 0 stands at bit `lo` of the word. -/
def putField {n : Nat} (v : BitVec n) (lo : Nat) : UopWord := v.setWidth 32 <<< lo

/-- `encode`: the word of each micro-operation, from the "Encoding" line of its rule. -/
def encode : Instr → UopWord
  | .seed a => 0x10000000#32 ||| putField a 0
  | .blk t => 0x20000000#32 ||| putField t 0
  | .ldc => 0x30000000#32
  | .mix a b c d e =>
      0x40000000#32 ||| putField e 12 ||| putField d 9 ||| putField c 6 ||| putField b 3 ||| putField a 0
  | .jmp t => 0x50000000#32 ||| putField t 0
  | .ldp => 0x60000000#32
  | .ldf => 0x70000000#32
  | .inj => 0x80000000#32
  | .lenv => 0x90000000#32
  | .chk t => 0xA0000000#32 ||| putField t 0
  | .shuf a b c d e f =>
      0xB0000000#32 ||| putField f 15 ||| putField e 12 ||| putField d 9 ||| putField c 6 |||
        putField b 3 ||| putField a 0
  | .addq a b => 0xC0000000#32 ||| putField b 3 ||| putField a 0
  | .xorv a b => 0xD0000000#32 ||| putField b 3 ||| putField a 0
  | .fin => 0xE0000000#32

/-- The word whose bits are the low `nbits` bits of `w`, every bit above them 0. A micro-operation
is one 32-bit word and is never seen as bytes (R80), so no byte order enters. -/
def tableWord (nbits w : Nat) : UopWord := BitVec.ofNat 32 (w % 2 ^ nbits)

/-- What the decoder reads from a word of the opcode table. -/
def decodeTableWord (nbits w : Nat) : Option Instr :=
  match decode (tableWord nbits w) with
  | .ok i => some i
  | .error _ => none

end Sys2Proof
end

