-- ==== Sys2Proof/Machine/Datapath.lean ====
section
/-!
DEFINITION. The datapath functions of 40_datapath_primitives.md (R110 to R120): pure functions on
128-bit values, with the byte numbering of 00_scope.md R9 and the halves of R10.
-/

namespace Sys2Proof.Machine

/-- `V.b[i]`: byte `i` of a 128-bit value, bits `8i+7 : 8i` (R9). -/
def byteOf (v : Lane) (i : Nat) : Byte := v.extractLsb' (8 * i) 8

/-- The value made of the first `n` bytes `f 0`, `f 1`, ..., byte 0 least significant. -/
def lowBytes (f : Nat → Byte) : Nat → Lane
  | 0 => 0#128
  | n + 1 => lowBytes f n ||| ((f n).setWidth 128 <<< (8 * n))

/-- `bytes(b0, ..., b15)`: the value whose byte `i` is `f i` (R9). -/
def ofBytes (f : Nat → Byte) : Lane := lowBytes f 16

/-- `V.q[0]`, bits 63:0 (R10). -/
def quadLo (v : Lane) : Quad := v.extractLsb' 0 64

/-- `V.q[1]`, bits 127:64 (R10). -/
def quadHi (v : Lane) : Quad := v.extractLsb' 64 64

/-- The value with the given quadwords (R10). -/
def ofQuads (hi lo : Quad) : Lane := hi ++ lo

/-- `add64x2` (R116): each quadword adds modulo `2^64`; no carry crosses, none is kept. -/
def add64x2 (p q : Lane) : Lane := ofQuads (quadHi p + quadHi q) (quadLo p + quadLo q)

/-- `xor128` (R117). -/
def xor128 (p q : Lane) : Lane := p ^^^ q

/-- `align(p, q, k)` (R118): 16 bytes from byte `k` of `p`'s bytes followed by `q`'s. -/
def align (p q : Lane) (k : Nat) : Lane :=
  ofBytes fun i => if k + i < 16 then byteOf p (k + i) else byteOf q (k + i - 16)

/-- `rotbytes(v, n)` (R119): byte `n` moves to position 0. -/
def rotbytes (v : Lane) (n : Nat) : Lane := ofBytes fun i => byteOf v ((i + n) % 16)

/-- `maskbytes(v, m)` (R120): the bytes from position `m` on become 0. -/
def maskbytes (v : Lane) (m : Nat) : Lane := ofBytes fun i => if i < m then byteOf v i else 0#8

/-- The state matrix (R111): the byte at row `r`, column `c` is byte `4c + r`. -/
def aesCell (s : Lane) (r c : Nat) : Byte := byteOf s (4 * c + r)

/-- `InvShiftRows` (R111): row `r` rotates to the right by `r` columns. -/
def invShiftRows (s : Lane) : Lane :=
  ofBytes fun i => aesCell s (i % 4) ((i / 4 + 4 - i % 4) % 4)

/-- Rows 0x to 3x of `INV_SBOX` (R112). -/
def invSboxRows0 : List (List Byte) :=
  [ [0x52, 0x09, 0x6A, 0xD5, 0x30, 0x36, 0xA5, 0x38, 0xBF, 0x40, 0xA3, 0x9E, 0x81, 0xF3, 0xD7, 0xFB],
    [0x7C, 0xE3, 0x39, 0x82, 0x9B, 0x2F, 0xFF, 0x87, 0x34, 0x8E, 0x43, 0x44, 0xC4, 0xDE, 0xE9, 0xCB],
    [0x54, 0x7B, 0x94, 0x32, 0xA6, 0xC2, 0x23, 0x3D, 0xEE, 0x4C, 0x95, 0x0B, 0x42, 0xFA, 0xC3, 0x4E],
    [0x08, 0x2E, 0xA1, 0x66, 0x28, 0xD9, 0x24, 0xB2, 0x76, 0x5B, 0xA2, 0x49, 0x6D, 0x8B, 0xD1, 0x25] ]

/-- Rows 4x to 7x of `INV_SBOX` (R112). -/
def invSboxRows4 : List (List Byte) :=
  [ [0x72, 0xF8, 0xF6, 0x64, 0x86, 0x68, 0x98, 0x16, 0xD4, 0xA4, 0x5C, 0xCC, 0x5D, 0x65, 0xB6, 0x92],
    [0x6C, 0x70, 0x48, 0x50, 0xFD, 0xED, 0xB9, 0xDA, 0x5E, 0x15, 0x46, 0x57, 0xA7, 0x8D, 0x9D, 0x84],
    [0x90, 0xD8, 0xAB, 0x00, 0x8C, 0xBC, 0xD3, 0x0A, 0xF7, 0xE4, 0x58, 0x05, 0xB8, 0xB3, 0x45, 0x06],
    [0xD0, 0x2C, 0x1E, 0x8F, 0xCA, 0x3F, 0x0F, 0x02, 0xC1, 0xAF, 0xBD, 0x03, 0x01, 0x13, 0x8A, 0x6B] ]

/-- Rows 8x to Bx of `INV_SBOX` (R112). -/
def invSboxRows8 : List (List Byte) :=
  [ [0x3A, 0x91, 0x11, 0x41, 0x4F, 0x67, 0xDC, 0xEA, 0x97, 0xF2, 0xCF, 0xCE, 0xF0, 0xB4, 0xE6, 0x73],
    [0x96, 0xAC, 0x74, 0x22, 0xE7, 0xAD, 0x35, 0x85, 0xE2, 0xF9, 0x37, 0xE8, 0x1C, 0x75, 0xDF, 0x6E],
    [0x47, 0xF1, 0x1A, 0x71, 0x1D, 0x29, 0xC5, 0x89, 0x6F, 0xB7, 0x62, 0x0E, 0xAA, 0x18, 0xBE, 0x1B],
    [0xFC, 0x56, 0x3E, 0x4B, 0xC6, 0xD2, 0x79, 0x20, 0x9A, 0xDB, 0xC0, 0xFE, 0x78, 0xCD, 0x5A, 0xF4] ]

/-- Rows Cx to Fx of `INV_SBOX` (R112). -/
def invSboxRowsC : List (List Byte) :=
  [ [0x1F, 0xDD, 0xA8, 0x33, 0x88, 0x07, 0xC7, 0x31, 0xB1, 0x12, 0x10, 0x59, 0x27, 0x80, 0xEC, 0x5F],
    [0x60, 0x51, 0x7F, 0xA9, 0x19, 0xB5, 0x4A, 0x0D, 0x2D, 0xE5, 0x7A, 0x9F, 0x93, 0xC9, 0x9C, 0xEF],
    [0xA0, 0xE0, 0x3B, 0x4D, 0xAE, 0x2A, 0xF5, 0xB0, 0xC8, 0xEB, 0xBB, 0x3C, 0x83, 0x53, 0x99, 0x61],
    [0x17, 0x2B, 0x04, 0x7E, 0xBA, 0x77, 0xD6, 0x26, 0xE1, 0x69, 0x14, 0x63, 0x55, 0x21, 0x0C, 0x7D] ]

/-- `INV_SBOX` (R112), by rows. -/
def invSboxRows : List (List Byte) := invSboxRows0 ++ invSboxRows4 ++ invSboxRows8 ++ invSboxRowsC

/-- `INV_SBOX[v]` (R112): the row is the high hexadecimal digit, the column the low one. -/
def invSbox (v : Byte) : Byte := (invSboxRows.getD (v.toNat / 16) []).getD (v.toNat % 16) 0#8

/-- `InvSubBytes` (R112). -/
def invSubBytes (s : Lane) : Lane := ofBytes fun i => invSbox (byteOf s i)

/-- `xtime` (R114): doubling in GF(2^8) modulo `x^8 + x^4 + x^3 + x + 1`. -/
def xtime (v : Byte) : Byte := if v.msb then (v <<< 1) ^^^ 0x1B#8 else v <<< 1

/-- `xtime` applied `n` times (R114). -/
def xtimes : Nat → Byte → Byte
  | 0, v => v
  | n + 1, v => xtime (xtimes n v)

/-- The xor of `xtime^j(v)` over the bits `j < n` set in `c` (R114). -/
def gmulBelow (c v : Byte) : Nat → Byte
  | 0 => 0#8
  | n + 1 => if c.getLsbD n then gmulBelow c v n ^^^ xtimes n v else gmulBelow c v n

/-- The field product `c * v` (R114). -/
def gmul (c v : Byte) : Byte := gmulBelow c v 8

/-- One row of the InvMixColumns matrix against a column (R113). -/
def gdot (c0 c1 c2 c3 s0 s1 s2 s3 : Byte) : Byte :=
  gmul c0 s0 ^^^ gmul c1 s1 ^^^ gmul c2 s2 ^^^ gmul c3 s3

/-- Row `r` of the new column made from the column `s0 s1 s2 s3` (R113). -/
def invMixCell (r : Nat) (s0 s1 s2 s3 : Byte) : Byte :=
  match r with
  | 0 => gdot 0x0E#8 0x0B#8 0x0D#8 0x09#8 s0 s1 s2 s3
  | 1 => gdot 0x09#8 0x0E#8 0x0B#8 0x0D#8 s0 s1 s2 s3
  | 2 => gdot 0x0D#8 0x09#8 0x0E#8 0x0B#8 s0 s1 s2 s3
  | _ => gdot 0x0B#8 0x0D#8 0x09#8 0x0E#8 s0 s1 s2 s3

/-- `InvMixColumns` (R113). -/
def invMixColumns (s : Lane) : Lane :=
  ofBytes fun i =>
    invMixCell (i % 4) (aesCell s 0 (i / 4)) (aesCell s 1 (i / 4)) (aesCell s 2 (i / 4))
      (aesCell s 3 (i / 4))

/-- `AESRound(s, k)` (R110): the key enters last, as it stands. -/
def aesRound (s k : Lane) : Lane := xor128 (invMixColumns (invSubBytes (invShiftRows s))) k

end Sys2Proof.Machine
end

