-- ==== Sys2Proof/Config.lean ====
section
/-!
DEFINITION. The fixed parameters of the block (00_scope.md R6, R7). The spec leaves no parameter open
and no micro-operation has an open result, so there is no free value here. `unlistedByte` is the one
value that is the model's and not the spec's (log 2).
-/

namespace Sys2Proof.Config

/-- `SEED_BYTES`: the only seed length START accepts (R6, R32). -/
def seedBytes : Nat := 128

/-- `PAGE_BYTES`: the unit of readability (R6, R56). -/
def pageBytes : Nat := 4096

/-- `READ_BYTES`: the size of every memory read (R7). -/
def readBytes : Nat := 16

/-- `CHUNK_BYTES` (R6). -/
def chunkBytes : Nat := 32

/-- `2 ^ ADDR_BITS`: the size of the platform's address space (R7). -/
def addressSpace : Nat := 2 ^ 64

/-- What an unlisted address of the platform memory holds. DESIGN CHOICE (log 2): the spec says
nothing of what memory holds before anyone writes it. Unsafe. -/
def unlistedByte : Byte := 0#8

end Sys2Proof.Config
end

