-- ==== Sys2Proof/Machine/MicroProgram.lean ====
section
/-!
DEFINITION. The micro-program: the ROM words of 45_sequencer_and_host.md R221 as the table gives
them, and beside them the listing as the schedules of the source give it (the quintuples of
42_block_mixer.md R154, the windows of 44_reducer.md R204, the pseudo-operations of 30_encoding.md
R89). That the words decode to the listing is a statement, not a definition.
-/

namespace Sys2Proof.Machine

/-- Words 0x00 to 0x07: the Seeder (R221). -/
def seederWords : List UopWord :=
  [0x10000000#32, 0x10000001#32, 0x10000002#32, 0x10000003#32,
   0x10000004#32, 0x10000005#32, 0x10000006#32, 0x10000007#32]

/-- Words 0x08 to 0x19: the Block Mixer (R221). -/
def mixerWords : List UopWord :=
  [0x2000001A#32,
   0x30000000#32, 0x400023A0#32, 0x30000000#32, 0x400035E9#32,
   0x30000000#32, 0x40004632#32, 0x30000000#32, 0x4000587B#32,
   0x30000000#32, 0x40006A84#32, 0x30000000#32, 0x40007CCD#32,
   0x30000000#32, 0x40000F16#32, 0x30000000#32, 0x4000115F#32,
   0x50000008#32]

/-- Words 0x1A to 0x35: the Tail Handler (R221). -/
def tailWords : List UopWord :=
  [0x60000000#32, 0x70000000#32, 0x80000000#32, 0x400023A0#32,
   0x90000000#32, 0x80000000#32, 0x400035E9#32,
   0xA0000036#32, 0x30000000#32, 0x40004632#32,
   0xA0000036#32, 0x30000000#32, 0x4000587B#32,
   0xA0000036#32, 0x30000000#32, 0x40006A84#32,
   0xA0000036#32, 0x30000000#32, 0x40007CCD#32,
   0xA0000036#32, 0x30000000#32, 0x40000F16#32,
   0xA0000036#32, 0x30000000#32, 0x4000115F#32,
   0xA0000036#32, 0x30000000#32, 0x400023A0#32]

/-- Words 0x36 to 0x49: the Reducer (R221). -/
def reducerWords : List UopWord :=
  [0xB0035888#32, 0xB003EAD1#32, 0xB0007D1A#32, 0xB0008F63#32,
   0xB00111AC#32, 0xB001A3F5#32, 0xB002343E#32, 0xB002C647#32,
   0xB0035888#32, 0xB003EAD1#32, 0xB0007D1A#32, 0xB0008F63#32,
   0xC0000010#32, 0xC0000019#32, 0xC0000034#32, 0xC000003D#32,
   0xD0000008#32, 0xD000002C#32, 0xC0000020#32,
   0xE0000000#32]

/-- `ROM[0x00..0x49]` (R221). -/
def romWords : List UopWord := seederWords ++ mixerWords ++ tailWords ++ reducerWords

/-- `ROM[k]` for every `k`: the table of R221, and the illegal word 0 at 0x4A to 0x7F. -/
def microProgram : Vector UopWord 128 := Vector.ofFn fun k => romWords.getD k.val 0#32

/-- The quintuple `Q[i] = (i, i+4, i+6, i+1, i+2) mod 8` in a MIX (R154). -/
def mixQ (i : LaneNo) : Instr := .mix i (i + 4) (i + 6) (i + 1) (i + 2)

/-- The window `S[i] = (i, i+1, i+2, i+4, i+5, i+6) mod 8` in a SHUF (R204). -/
def shufS (i : LaneNo) : Instr := .shuf i (i + 1) (i + 2) (i + 4) (i + 5) (i + 6)

/-- The pseudo-operation `MIXM` with the quintuple `Q[i]`: one chunk (R89). -/
def mixmQ (i : LaneNo) : List Instr := [.ldc, mixQ i]

/-- The pseudo-operation `MIXR` with the quintuple `Q[i]`: an injection built by `align` (R89). -/
def mixrQ (i : LaneNo) : List Instr := [.inj, mixQ i]

/-- The pseudo-operation `FOLD` (R89, R205). -/
def fold : List Instr :=
  [.addq 0 2, .addq 1 3, .addq 4 6, .addq 5 7, .xorv 0 1, .xorv 4 5, .addq 0 4]

/-- The micro-program as the schedules give it: Seeder (R141), Block Mixer (R155), fixed tail (R175),
tail chunks (R177), Reducer (R204, R205), FIN. -/
def listing : List Instr :=
  [0, 1, 2, 3, 4, 5, 6, 7].map .seed ++
  (.blk 0x1A :: ([0, 1, 2, 3, 4, 5, 6, 7].flatMap mixmQ ++ [.jmp 0x08])) ++
  ([.ldp, .ldf] ++ mixrQ 0 ++ [.lenv] ++ mixrQ 1) ++
  [2, 3, 4, 5, 6, 7, 0].flatMap (fun i => .chk 0x36 :: mixmQ i) ++
  ([0, 1, 2, 3, 4, 5, 6, 7, 0, 1, 2, 3].map shufS ++ fold ++ [.fin])

end Sys2Proof.Machine
end

