-- ==== Sys2Proof/Machine/State.lean ====
section
/-!
DEFINITION. The state of the machine as plain data: every register of 10_state.md, the micro-program
ROM, the platform memory, and three fields that are the model's own (`script`, `reads`, `answers`);
the reasons a step can stop; the state after reset (10_state.md R40, 70_reset_and_hazards.md R281).
-/

namespace Sys2Proof.Machine

/-- Why the machine stops with a fault. -/
inductive Fault where
  /-- A `MemRead` at this address touches a byte that is not readable (20_memory.md R56, 60 R265, 93
  U5). Raised by SEED, LDC, LDP and LDF. The run never finishes and no digest is claimed. Safe. -/
  | unreadable (addr : Quad)
deriving DecidableEq, Repr

/-- Why the model gives no next state. -/
inductive Refusal where
  /-- An instruction that has no meaning in `exec` yet. Raised by no arm: all fourteen have one. Safe. -/
  | notModelled (mnemonic : String)
  /-- The sequencer fetched an illegal word (30_encoding.md R85, 93 U1, U2). Raised by the step rule;
  unreachable with the micro-program of R221. Safe. -/
  | illegalWord (w : UopWord)
  /-- A START that would be accepted, of a seed or an input that wraps around the top of the address
  space (20_memory.md R57, 93 U3). Raised by START. Safe. -/
  | objectWraps
  /-- A store of the platform that changes a byte the run in progress reads (20_memory.md R58, 93 U4).
  Raised by the platform's store at this address while `BUSY = 1`. Safe. -/
  | inputChanged (addr : Quad)
deriving DecidableEq, Repr

/-- The eight host registers: a type with exactly eight members (10_state.md R28, R36). -/
inductive HostReg where
  /-- Number 0 (R29). -/
  | ctrl
  /-- Number 1 (R30). -/
  | status
  /-- Number 2 (R31). -/
  | seedAddr
  /-- Number 3 (R32). -/
  | seedLen
  /-- Number 4 (R33). -/
  | dataAddr
  /-- Number 5 (R34). -/
  | dataLen
  /-- Number 6 (R35). -/
  | digestLo
  /-- Number 7 (R35). -/
  | digestHi
deriving DecidableEq, Repr

/-- What can happen between two steps of the sequencer. -/
inductive HostAction where
  /-- The host writes a register (45 R228). -/
  | write (r : HostReg) (v : Quad)
  /-- The host reads a register (45 R227). -/
  | read (r : HostReg)
  /-- `rst` is asserted and released (70_reset_and_hazards.md R280). -/
  | rst
  /-- The platform stores a byte in memory (20_memory.md R58, R60). -/
  | store (addr : Quad) (b : Byte)
  /-- The platform makes a 4096-byte page unreadable (20_memory.md R56). -/
  | protect (page : BitVec 52)
  /-- The platform makes a 4096-byte page readable (20_memory.md R56). -/
  | unprotect (page : BitVec 52)
deriving DecidableEq, Repr

/-- One entry of the script: who moves next (45 R220; log 4). -/
inductive Turn where
  | sequencer
  | host (a : HostAction)
deriving DecidableEq, Repr

/-- The state of the machine. -/
structure State where
  /-- `x[0..7]` (R20). -/
  lanes : Vector Lane 8
  /-- `pc` (R22). -/
  pc : UAddr
  /-- `BUSY` (R23). -/
  busy : Bool
  /-- `DONE` (R23). -/
  done : Bool
  /-- `ERR` (R23). -/
  err : Bool
  /-- `ERRCODE` (R23). -/
  errCode : BitVec 4
  /-- `IW` (R24). -/
  iw : Lane
  /-- `IX` (R24). -/
  ix : Lane
  /-- `IY` (R24). -/
  iy : Lane
  /-- `IZ` (R24). -/
  iz : Lane
  /-- `PTR` (R25). -/
  ptr : Quad
  /-- `BLKCNT` (R26). -/
  blkcnt : BitVec 56
  /-- `CHCNT` (R27). -/
  chcnt : BitVec 3
  /-- `SEED_ADDR` (R31). -/
  seedAddr : Quad
  /-- `SEED_LEN` (R32). -/
  seedLen : Quad
  /-- `DATA_ADDR` (R33). -/
  dataAddr : Quad
  /-- `DATA_LEN` (R34). -/
  dataLen : Quad
  /-- `DIGEST` (R35). -/
  digest : Lane
  /-- The micro-program ROM (R221). No step writes it (R63; log 1). -/
  rom : Vector UopWord 128
  /-- The platform memory (R50): addresses rising, bytes other than `Config.unlistedByte` (log 2). -/
  mem : List Host.Cell
  /-- The numbers of the pages the platform does not let the block read, rising (R56; log 3). -/
  unreadable : List Nat
  /-- The model's own: the turns to come; when empty, the sequencer's (log 4). -/
  script : List Turn
  /-- The model's own: the addresses of the reads issued so far, oldest first (R59; log 9). -/
  reads : List Quad
  /-- The model's own: what the host's reads returned so far, oldest first (R227; log 9). -/
  answers : List (HostReg × Quad)
deriving DecidableEq, Repr

/-- The machine right after reset (R40, R281): every piece of the block's state is 0, the ROM has its
contents (R221), memory lists nothing, every page is readable, nothing is scripted. -/
def State.reset : State where
  lanes := Vector.replicate 8 0#128
  pc := 0#7
  busy := false
  done := false
  err := false
  errCode := 0#4
  iw := 0#128
  ix := 0#128
  iy := 0#128
  iz := 0#128
  ptr := 0#64
  blkcnt := 0#56
  chcnt := 0#3
  seedAddr := 0#64
  seedLen := 0#64
  dataAddr := 0#64
  dataLen := 0#64
  digest := 0#128
  rom := microProgram
  mem := []
  unreadable := []
  script := []
  reads := []
  answers := []

/-- The outcome of a step of this machine. -/
abbrev StepResult := Host.Outcome State Fault Refusal

end Sys2Proof.Machine
end

