-- ==== Sys2Proof/Machine/Ops.lean ====
section
/-!
DEFINITION. The named operations: platform memory, the read port (20_memory.md R50, R56), the ROM
port (R63), the micro-program counter (10_state.md R22), and the entry of the one error of the block
(60_exceptions.md R253) with the way out of it (R258).
-/

namespace Sys2Proof.Machine

/-! ### The platform memory as a list of cells -/

/-- The byte memory holds at address `a` (R50); an unlisted address holds `Config.unlistedByte`. -/
def memGet : List Host.Cell → Nat → Byte
  | [], _ => Config.unlistedByte
  | (k, b) :: rest, a => if k = a then b else memGet rest a

/-- `m` with byte `v` at address `a`, in canonical form when `m` is. -/
def memSet : List Host.Cell → Nat → Byte → List Host.Cell
  | [], a, v => if v = Config.unlistedByte then [] else [(a, v)]
  | (k, b) :: rest, a, v =>
      if k < a then (k, b) :: memSet rest a v
      else if k = a then (if v = Config.unlistedByte then rest else (a, v) :: rest)
      else (if v = Config.unlistedByte then (k, b) :: rest else (a, v) :: (k, b) :: rest)

/-- The canonical form of a memory whose addresses are all at least `lo`: strictly rising, inside the
address space, no entry equal to what an unlisted address holds. -/
def memWfFrom : Nat → List Host.Cell → Bool
  | _, [] => true
  | lo, (k, b) :: rest =>
      decide (lo ≤ k) && decide (k < Config.addressSpace) && decide (b ≠ Config.unlistedByte) &&
        memWfFrom (k + 1) rest

/-- The canonical form of the memory. -/
def Memory.wf (m : List Host.Cell) : Bool := memWfFrom 0 m

/-! ### Pages that are not readable -/

/-- The number of the 4096-byte page that holds address `a` (R56). -/
def pageOf (a : Nat) : Nat := a / Config.pageBytes

/-- The page list with `p` added, in canonical form when the list is. -/
def pageAdd : List Nat → Nat → List Nat
  | [], p => [p]
  | q :: rest, p => if q < p then q :: pageAdd rest p else if q = p then q :: rest else p :: q :: rest

/-- The page list with `p` taken out. -/
def pageDrop : List Nat → Nat → List Nat
  | [], _ => []
  | q :: rest, p => if q = p then pageDrop rest p else q :: pageDrop rest p

/-- The canonical form of a page list from `lo` on: strictly rising page numbers of the address space. -/
def pagesWfFrom : Nat → List Nat → Bool
  | _, [] => true
  | lo, q :: rest =>
      decide (lo ≤ q) && decide (q < Config.addressSpace / Config.pageBytes) && pagesWfFrom (q + 1) rest

/-- The canonical form of the list of unreadable pages. -/
def Pages.wf (ps : List Nat) : Bool := pagesWfFrom 0 ps

/-! ### The read port -/

/-- The byte of platform memory at a 64-bit address. -/
def State.byteAt (s : State) (a : Quad) : Byte := memGet s.mem a.toNat

/-- The byte at this address can be read: its page is readable (R56). -/
def State.readable (s : State) (a : Quad) : Bool := !s.unreadable.contains (pageOf a.toNat)

/-- All 16 bytes of the window at `addr` can be read. -/
def State.windowReadable (s : State) (addr : Quad) : Bool :=
  (List.range Config.readBytes).all fun i => s.readable (addr + BitVec.ofNat 64 i)

/-- The value `V` with `V.b[i] = mem[(addr + i) mod 2^64]` (R50). -/
def State.window (s : State) (addr : Quad) : Lane :=
  ofBytes fun i => s.byteAt (addr + BitVec.ofNat 64 i)

/-- Record a read as an event (R59; log 9). -/
def State.noteRead (s : State) (addr : Quad) : State := { s with reads := s.reads ++ [addr] }

/-- `MemRead(addr, 16)` (R50), its answer given to `k` with the state after the read; a read that
touches an unreadable byte is a fault of the run (R56). -/
def memRead (addr : Quad) (s : State) (k : Lane → State → StepResult) : StepResult :=
  if s.windowReadable addr then k (s.window addr) (s.noteRead addr) else .fault (.unreadable addr)

/-! ### The ROM port and the micro-program counter -/

/-- `ROM[pc]` (R220, R63). -/
def State.fetch (s : State) : UopWord := s.rom[s.pc.toNat]'s.pc.isLt

/-- The state whose ROM holds `w` at `pc`. The block has no such port (R63): this places a word from
outside (log 11). -/
def State.placeWord (s : State) (w : UopWord) : State :=
  { s with rom := s.rom.set s.pc.toNat w s.pc.isLt }

/-- `pc <- t` (R11). -/
def State.goto (s : State) (t : UAddr) : State := { s with pc := t }

/-- `pc <- (pc + 1) mod 128` (R22). -/
def State.advance (s : State) : State := s.goto (s.pc + 1#7)

/-! ### The one error: entry and return -/

/-- `DONE <- 0; ERR <- 0; ERRCODE <- 0; DIGEST <- 0`: the first line of START (R224) and the whole of
CLR (R226). It is also the way out of the error: nothing is restored, since nothing was saved (R258). -/
def State.clearStatus (s : State) : State :=
  { s with done := false, err := false, errCode := 0#4, digest := 0#128 }

/-- `raise InvalidSeedLength` (R253): the entry saves nothing and transfers control nowhere (R257). -/
def State.raiseInvalidSeedLength (s : State) : State := { s with err := true, errCode := 1#4 }

end Sys2Proof.Machine
end

