-- ==== Sys2Proof/Machine/Operands.lean ====
section
/-!
DEFINITION. The operands of the micro-operations: lanes by number (10_state.md R20, R21), the
injection registers, pointer and counters (R24 to R27), and the
lengths and addresses derived from `DATA_LEN` and `DATA_ADDR` (00_scope.md R13, 43_tail_processor.md
section 1).
-/

namespace Sys2Proof.Machine

/-- A read of lane `x[i]` (R11). -/
def State.lane (s : State) (i : LaneNo) : Lane := s.lanes[i.toNat]'i.isLt

/-- `x[i] <- v` (R11). -/
def State.setLane (s : State) (i : LaneNo) (v : Lane) : State :=
  { s with lanes := s.lanes.set i.toNat v i.isLt }

/-- `IW <- v` (R24). -/
def State.setIw (s : State) (v : Lane) : State := { s with iw := v }

/-- `IX <- v` (R24). -/
def State.setIx (s : State) (v : Lane) : State := { s with ix := v }

/-- `IY <- v` (R24). -/
def State.setIy (s : State) (v : Lane) : State := { s with iy := v }

/-- `IZ <- v` (R24). -/
def State.setIz (s : State) (v : Lane) : State := { s with iz := v }

/-- `PTR <- v` (R25). -/
def State.setPtr (s : State) (v : Quad) : State := { s with ptr := v }

/-- `BLKCNT <- v` (R26). -/
def State.setBlkcnt (s : State) (v : BitVec 56) : State := { s with blkcnt := v }

/-- `CHCNT <- v` (R27). -/
def State.setChcnt (s : State) (v : BitVec 3) : State := { s with chcnt := v }

/-- `DIGEST <- v` (R35). -/
def State.setDigest (s : State) (v : Lane) : State := { s with digest := v }

/-- `NB = L >> 8`, all 56 bits of it (R13, R26). -/
def blocksOf (len : Quad) : BitVec 56 := len.extractLsb' 8 56

/-- `NC = (L >> 5) & 7` (R13, R27). -/
def chunksOf (len : Quad) : BitVec 3 := len.extractLsb' 5 3

/-- `tailLen = L & 0xF` (R13). -/
def tailLenOf (len : Quad) : Nat := (len &&& 0xF#64).toNat

/-- `FULL16 = L[4]` (R13). -/
def full16Of (len : Quad) : Bool := len.getLsbD 4

/-- `A_last = A + (L & ~0xF)`: the address of the first byte of the partial. -/
def lastAddr (addr len : Quad) : Quad := addr + (len &&& ~~~0xF#64)

/-- `page_last = (A + L - 1) | 0xFFF`: the last byte of the page of the last input byte. -/
def lastPageEnd (addr len : Quad) : Quad := (addr + len - 1#64) ||| 0xFFF#64

/-- `cross`: the window at `A_last` would end beyond `page_last`; no wrap on the left side (R170, R121). -/
def crossesPage (addr len : Quad) : Bool :=
  decide ((lastAddr addr len).toNat + 15 > (lastPageEnd addr len).toNat)

/-- `Align`: how far the window of the partial read is shifted backward (R170). -/
def alignOf (addr len : Quad) : Nat :=
  if crossesPage addr len then (lastAddr addr len &&& 0xF#64).toNat else 0

/-- `A_last - Align`: where the partial read starts (R170). -/
def partialAddr (addr len : Quad) : Quad := lastAddr addr len - BitVec.ofNat 64 (alignOf addr len)

end Sys2Proof.Machine
end

