-- ==== Sys2Proof/Machine/Flags.lean ====
section
/-!
DEFINITION. The flags: the block has no condition codes (10_state.md R23), only `BUSY`, `DONE`, `ERR`
and `ERRCODE`, seen by the host as the STATUS word (R30) and, for `DONE`, as the output `done_o`
(45_sequencer_and_host.md R230).
-/

namespace Sys2Proof.Machine

/-- A one-bit flag as a 64-bit value. -/
def bitQuad (b : Bool) : Quad := if b then 1#64 else 0#64

/-- `STATUS = ERRCODE << 4 | ERR << 2 | DONE << 1 | BUSY` (R30, R227). -/
def State.statusWord (s : State) : Quad :=
  (s.errCode.setWidth 64 <<< 4) ||| (bitQuad s.err <<< 2) ||| (bitQuad s.done <<< 1) ||| bitQuad s.busy

/-- The output `done_o` (R230): a level, not an interrupt request (60 R255). -/
def State.doneOut (s : State) : Bool := s.done

/-- The block delivers its result: `DONE <- 1`, `BUSY <- 0`, in one step (R203). -/
def State.finishFlags (s : State) : State := { s with done := true, busy := false }

end Sys2Proof.Machine
end

