-- ==== Sys2Proof/Machine/BlockMixer.lean ====
section
/-! DEFINITION. The Block Mixer's micro-operations (42_block_mixer.md). -/

namespace Sys2Proof.Machine

/-- `BLK t` (R150). -/
def execBlk (t : UAddr) (s : State) : StepResult :=
  if s.blkcnt = 0#56 then .next (s.goto t)
  else .next (s.setBlkcnt (s.blkcnt - 1#56)).advance

/-- `LDC` (R151): the four reads in the order `p+15`, `p+0`, `p+1`, `p+16`. -/
def execLdc (s : State) : StepResult :=
  let p := s.ptr
  memRead (p + 15#64) s fun w s =>
  memRead p (s.setIw w) fun x s =>
  memRead (p + 1#64) (s.setIx x) fun y s =>
  memRead (p + 16#64) (s.setIy y) fun z s =>
  .next ((s.setIz z).setPtr (p + 32#64)).advance

/-- The six assignments of one MIX, in order, each seeing the ones before it (R152). -/
def mixLanes (a b c d e : LaneNo) (s : State) : State :=
  let s := s.setLane a (aesRound (s.lane a) (s.lane b))
  let s := s.setLane c (add64x2 (s.lane c) s.iw)
  let s := s.setLane b (xor128 (s.lane b) s.ix)
  let s := s.setLane b (aesRound (s.lane b) (s.lane d))
  let s := s.setLane e (add64x2 (s.lane e) s.iy)
  s.setLane d (xor128 (s.lane d) s.iz)

/-- `MIX a,b,c,d,e` (R152). -/
def execMix (a b c d e : LaneNo) (s : State) : StepResult := .next (mixLanes a b c d e s).advance

/-- `JMP t` (R153). -/
def execJmp (t : UAddr) (s : State) : StepResult := .next (s.goto t)

end Sys2Proof.Machine
end

