-- ==== Sys2Proof/Machine/Reducer.lean ====
section
/-! DEFINITION. The Reducer's micro-operations (44_reducer.md). -/

namespace Sys2Proof.Machine

/-- The six assignments of one SHUF, in order, each seeing the ones before it (R200). -/
def shufLanes (a b c d e f : LaneNo) (s : State) : State :=
  let s := s.setLane a (aesRound (s.lane a) (s.lane d))
  let s := s.setLane b (add64x2 (s.lane b) (s.lane e))
  let s := s.setLane d (xor128 (s.lane d) (s.lane f))
  let s := s.setLane d (aesRound (s.lane d) (s.lane b))
  let s := s.setLane e (add64x2 (s.lane e) (s.lane f))
  s.setLane b (xor128 (s.lane b) (s.lane c))

/-- `SHUF a,b,c,d,e,f` (R200). -/
def execShuf (a b c d e f : LaneNo) (s : State) : StepResult :=
  .next (shufLanes a b c d e f s).advance

/-- `ADDQ a,b` (R201). -/
def execAddq (a b : LaneNo) (s : State) : StepResult :=
  .next (s.setLane a (add64x2 (s.lane a) (s.lane b))).advance

/-- `XORV a,b` (R202). -/
def execXorv (a b : LaneNo) (s : State) : StepResult :=
  .next (s.setLane a (xor128 (s.lane a) (s.lane b))).advance

/-- The working state cleared: lanes, injection registers, pointer, counters, `pc` (R203). -/
def State.discardWork (s : State) : State :=
  { s with
    lanes := Vector.replicate 8 0#128
    iw := 0#128, ix := 0#128, iy := 0#128, iz := 0#128
    ptr := 0#64, blkcnt := 0#56, chcnt := 0#3, pc := 0#7 }

/-- `FIN` (R203): the digest is `x[0]` as it stood; all in one step. -/
def execFin (s : State) : StepResult :=
  .next (s.setDigest (s.lane 0#3)).discardWork.finishFlags

end Sys2Proof.Machine
end

