-- ==== Sys2Proof/Machine/Seeder.lean ====
section
/-! DEFINITION. The Seeder's micro-operation (41_seeder.md). -/

namespace Sys2Proof.Machine

/-- `SEED_ADDR + 16*a`, modulo 2^64 (R140). -/
def seedReadAddr (s : State) (a : LaneNo) : Quad := s.seedAddr + BitVec.ofNat 64 (16 * a.toNat)

/-- `SEED a` (R140): the lane field selects the 16 bytes; the old lane is not read. -/
def execSeed (a : LaneNo) (s : State) : StepResult :=
  memRead (seedReadAddr s a) s fun v s => .next (s.setLane a v).advance

end Sys2Proof.Machine
end

