-- ==== Sys2Proof/Machine/Tail.lean ====
section
/-! DEFINITION. The Tail Handler's micro-operations (43_tail_processor.md). -/

namespace Sys2Proof.Machine

/-- What `LDP` makes of the 16 bytes it read: `maskbytes(rotbytes(raw, Align), tailLen)` (R170). -/
def partialOf (addr len : Quad) (raw : Lane) : Lane :=
  maskbytes (rotbytes raw (alignOf addr len)) (tailLenOf len)

/-- `LDP` (R170): no read when `tailLen = 0`; otherwise one read, its window shifted backward when it
would cross the page of the last input byte. -/
def execLdp (s : State) : StepResult :=
  let s := (s.setIx 0#128).setIz 0#128
  if tailLenOf s.dataLen = 0 then .next s.advance
  else memRead (partialAddr s.dataAddr s.dataLen) s fun raw s =>
    .next (s.setIx (partialOf s.dataAddr s.dataLen raw)).advance

/-- `LDF` (R171): the partial moves to `IZ` and the 16 bytes before it come into `IX`, when `L[4] = 1`. -/
def execLdf (s : State) : StepResult :=
  if full16Of s.dataLen then
    memRead (lastAddr s.dataAddr s.dataLen - 16#64) (s.setIz s.ix) fun x s =>
      .next (s.setIx x).advance
  else .next s.advance

/-- `INJ` (R172): `IW` and `IY` from the bytes of `IZ` followed by those of `IX`. -/
def execInj (s : State) : StepResult :=
  .next ((s.setIw (align s.iz s.ix 15)).setIy (align s.iz s.ix 1)).advance

/-- `LENV` (R173): the whole 64-bit length, zero-extended. -/
def execLenv (s : State) : StepResult :=
  .next ((s.setIx 0#128).setIz (s.dataLen.setWidth 128)).advance

/-- `CHK t` (R174). -/
def execChk (t : UAddr) (s : State) : StepResult :=
  if s.chcnt = 0#3 then .next (s.goto t)
  else .next (s.setChcnt (s.chcnt - 1#3)).advance

end Sys2Proof.Machine
end

