-- ==== Sys2Proof/Machine/Dispatch.lean ====
section
/-! DEFINITION. One arm per micro-operation: the execute part of the step rule (45 R220). -/

namespace Sys2Proof.Machine

def exec (i : Instr) (s : State) : Host.Outcome State Fault Refusal :=
  match i with
  | .seed a => Sys2Proof.Machine.execSeed a s
  | .blk t => Sys2Proof.Machine.execBlk t s
  | .ldc => Sys2Proof.Machine.execLdc s
  | .mix a b c d e => Sys2Proof.Machine.execMix a b c d e s
  | .jmp t => Sys2Proof.Machine.execJmp t s
  | .ldp => Sys2Proof.Machine.execLdp s
  | .ldf => Sys2Proof.Machine.execLdf s
  | .inj => Sys2Proof.Machine.execInj s
  | .lenv => Sys2Proof.Machine.execLenv s
  | .chk t => Sys2Proof.Machine.execChk t s
  | .shuf a b c d e f => Sys2Proof.Machine.execShuf a b c d e f s
  | .addq a b => Sys2Proof.Machine.execAddq a b s
  | .xorv a b => Sys2Proof.Machine.execXorv a b s
  | .fin => Sys2Proof.Machine.execFin s

end Sys2Proof.Machine
end

