-- ==== Sys2Proof/Machine/HostPort.lean ====
section
/-!
DEFINITION. What happens between two steps of the sequencer: the host's reads and writes with the
commands START and CLR (45_sequencer_and_host.md R224 to R228), reset (70_reset_and_hazards.md R280),
and the platform's side of the memory (20_memory.md R56 to R60).
-/

namespace Sys2Proof.Machine

/-- The register a host register number names; numbers above 7 name none (R28, R36). -/
def HostReg.ofNumber? : Nat → Option HostReg
  | 0 => some .ctrl
  | 1 => some .status
  | 2 => some .seedAddr
  | 3 => some .seedLen
  | 4 => some .dataAddr
  | 5 => some .dataLen
  | 6 => some .digestLo
  | 7 => some .digestHi
  | _ => none

/-- `SEED_ADDR <- v` (R31). -/
def State.setSeedAddr (s : State) (v : Quad) : State := { s with seedAddr := v }

/-- `SEED_LEN <- v` (R32). -/
def State.setSeedLen (s : State) (v : Quad) : State := { s with seedLen := v }

/-- `DATA_ADDR <- v` (R33). -/
def State.setDataAddr (s : State) (v : Quad) : State := { s with dataAddr := v }

/-- `DATA_LEN <- v` (R34). -/
def State.setDataLen (s : State) (v : Quad) : State := { s with dataLen := v }

/-- The host has read `v` from register `r` (R227; log 9). -/
def State.noteAnswer (s : State) (r : HostReg) (v : Quad) : State := { s with answers := s.answers ++ [(r, v)] }

/-- The state with another list of unreadable pages (R56; log 3). -/
def State.setPages (s : State) (ps : List Nat) : State := { s with unreadable := ps }

/-- What a host read returns (R227, R35): a read of `CTRL` returns 0. -/
def hostRead (r : HostReg) (s : State) : Quad :=
  match r with
  | .ctrl => 0#64
  | .status => s.statusWord
  | .seedAddr => s.seedAddr
  | .seedLen => s.seedLen
  | .dataAddr => s.dataAddr
  | .dataLen => s.dataLen
  | .digestLo => quadLo s.digest
  | .digestHi => quadHi s.digest

/-- The precondition of R57: neither the seed nor the input wraps around the top of the address space. -/
def State.objectsFit (s : State) : Bool :=
  decide (s.seedAddr.toNat + Config.seedBytes ≤ Config.addressSpace) &&
    decide (s.dataAddr.toNat + s.dataLen.toNat ≤ Config.addressSpace)

/-- The accepting half of START: a run begins (R224). -/
def State.launch (s : State) : State :=
  { s with
    ptr := s.dataAddr
    blkcnt := blocksOf s.dataLen
    chcnt := chunksOf s.dataLen
    pc := 0#7
    busy := true }

/-- START (R224): the status is cleared first, the seed length checked second (R256). A START that
would be accepted of an object that wraps is refused by the model (R57). -/
def startCommand (s : State) : StepResult :=
  let s := s.clearStatus
  if s.seedLen ≠ BitVec.ofNat 64 Config.seedBytes then .next s.raiseInvalidSeedLength
  else if s.objectsFit then .next s.launch
  else .refused .objectWraps

/-- CLR (R226). -/
def clrCommand (s : State) : StepResult := .next s.clearStatus

/-- A write of `CTRL` while `BUSY = 0`: START wins over CLR, the other bits are ignored (R29, R256). -/
def ctrlWrite (v : Quad) (s : State) : StepResult :=
  if v.getLsbD 0 then startCommand s
  else if v.getLsbD 1 then clrCommand s
  else .next s

/-- A host write (R228); while `BUSY = 1` every one is ignored (R37). -/
def hostWrite (r : HostReg) (v : Quad) (s : State) : StepResult :=
  if s.busy then .next s
  else match r with
    | .ctrl => ctrlWrite v s
    | .status => .next s
    | .seedAddr => .next (s.setSeedAddr v)
    | .seedLen => .next (s.setSeedLen v)
    | .dataAddr => .next (s.setDataAddr v)
    | .dataLen => .next (s.setDataLen v)
    | .digestLo => .next s
    | .digestHi => .next s

/-- Reset (R280): every piece of the block's state is 0. The ROM and the memory are not the block's
state and stay (R281), as does the model's own record (log 10). -/
def State.afterRst (s : State) : State :=
  { State.reset with
    rom := s.rom, mem := s.mem, unreadable := s.unreadable
    script := s.script, reads := s.reads, answers := s.answers }

/-- A page the run at hand owns: it holds a byte of the seed or, when `L > 0`, of the input (R56). -/
def State.ownsPage (s : State) (p : Nat) : Bool :=
  (decide (pageOf s.seedAddr.toNat ≤ p) &&
    decide (p ≤ pageOf (s.seedAddr.toNat + (Config.seedBytes - 1)))) ||
  (decide (0 < s.dataLen.toNat) && decide (pageOf s.dataAddr.toNat ≤ p) &&
    decide (p ≤ pageOf (s.dataAddr.toNat + s.dataLen.toNat - 1)))

/-- The state with byte `b` at address `a` of the platform memory. -/
def State.setByte (s : State) (a : Quad) (b : Byte) : State := { s with mem := memSet s.mem a.toNat b }

/-- The platform stores a byte. A store that changes a byte of an owned page while a run is in
progress is refused: no behaviour is specified for it (R58, U4; log 8). -/
def platformStore (a : Quad) (b : Byte) (s : State) : StepResult :=
  if s.busy && s.ownsPage (pageOf a.toNat) && s.byteAt a != b then .refused (.inputChanged a)
  else .next (s.setByte a b)

/-- One action between two steps (R28, R220). A host read changes nothing of the block: its answer
goes to the host. -/
def hostAct (a : HostAction) (s : State) : StepResult :=
  match a with
  | .write r v => hostWrite r v s
  | .read r => .next (s.noteAnswer r (hostRead r s))
  | .rst => .next s.afterRst
  | .store addr b => platformStore addr b s
  | .protect p => .next (s.setPages (pageAdd s.unreadable p.toNat))
  | .unprotect p => .next (s.setPages (pageDrop s.unreadable p.toNat))

end Sys2Proof.Machine
end

