-- ==== Sys2Proof/Machine/Sequencer.lean ====
section
/-!
DEFINITION. The step rule of the sequencer (45_sequencer_and_host.md R220) and the turn that the
script gives next.
-/

namespace Sys2Proof.Machine

/-- A turn of the sequencer: it has a step exactly when `BUSY = 1` (R220): fetch, decode, execute; an
illegal word is refused (30_encoding.md R85). With `BUSY = 0` the block is idle and holds its
registers (60_exceptions.md R264; log 5). -/
def sequencerTurn (s : State) : StepResult :=
  if s.busy then
    match decode s.fetch with
    | .ok i => exec i s
    | .error _ => .refused (.illegalWord s.fetch)
  else .next s

/-- The state with another script (log 4). -/
def State.setScript (s : State) (ts : List Turn) : State := { s with script := ts }

/-- The turn at the head of the script; with nothing scripted, the sequencer's. -/
def nextTurn (s : State) : StepResult :=
  match s.script with
  | [] => sequencerTurn s
  | .sequencer :: rest => sequencerTurn (s.setScript rest)
  | .host a :: rest => hostAct a (s.setScript rest)

/-- The script with the sequencer's turn put first, unless it is the sequencer's turn already. -/
def sequencerFirst : List Turn → List Turn
  | [] => []
  | .sequencer :: rest => .sequencer :: rest
  | .host a :: rest => .sequencer :: .host a :: rest

/-- All that it takes for the next step to run the word `w`: the word in the ROM at `pc`, `BUSY = 1`,
the sequencer's turn (log 11). -/
def State.readyToRun (s : State) (w : UopWord) : State :=
  { s.placeWord w with busy := true, script := sequencerFirst s.script }

end Sys2Proof.Machine
end

