-- ==== Sys2Proof/Machine/Step.lean ====
section
/-! DEFINITION. One step of the machine, and the placing of a word where the step fetches. -/

namespace Sys2Proof.Machine

/-- One step: one turn of the host or of the sequencer, each atomic (10_state.md R28, 45 R220). -/
def step (s : State) : Host.Outcome State Fault Refusal := nextTurn s

/-- `s` with the word of the opcode table placed where the next step fetches, and that step made the
sequencer's (log 11). -/
def State.withFetchWord (s : State) (nbits w : Nat) : State := s.readyToRun (tableWord nbits w)

end Sys2Proof.Machine
end

