-- ==== Sys2Proof/Machine/HashFunction.lean ====
section
/-!
DEFINITION. What a run computes: the function `hash` of 45_sequencer_and_host.md R223, written over
byte sequences with no machine, and the counts and the list of reads of a run (R225, 20_memory.md R55,
70_reset_and_hazards.md R285).
-/

namespace Sys2Proof.Machine

/-- The eight lanes as a value. -/
abbrev Lanes := Vector Lane 8

/-- Lane `i`. -/
def laneAt (x : Lanes) (i : LaneNo) : Lane := x[i.toNat]'i.isLt

/-- The lanes with lane `i` replaced. -/
def putLane (x : Lanes) (i : LaneNo) (v : Lane) : Lanes := x.set i.toNat v i.isLt

/-- `data[o .. o+15]` as a 128-bit value, its first byte as byte 0. -/
def slice (data : Nat → Byte) (o : Nat) : Lane := ofBytes fun j => data (o + j)

/-- `MIXQ(i; w,x,y,z)`: the six assignments of R152 with the quintuple `Q[i]` (R154). -/
def hashMix (i : LaneNo) (w x y z : Lane) (l : Lanes) : Lanes :=
  let l := putLane l i (aesRound (laneAt l i) (laneAt l (i + 4)))
  let l := putLane l (i + 6) (add64x2 (laneAt l (i + 6)) w)
  let l := putLane l (i + 4) (xor128 (laneAt l (i + 4)) x)
  let l := putLane l (i + 4) (aesRound (laneAt l (i + 4)) (laneAt l (i + 1)))
  let l := putLane l (i + 2) (add64x2 (laneAt l (i + 2)) y)
  putLane l (i + 1) (xor128 (laneAt l (i + 1)) z)

/-- `MIXQ(i; chunk(o))`: the four values of the 32 bytes at offset `o` (R223, R151). -/
def hashChunk (data : Nat → Byte) (i : LaneNo) (o : Nat) (l : Lanes) : Lanes :=
  hashMix i (slice data (o + 15)) (slice data o) (slice data (o + 1)) (slice data (o + 16)) l

/-- Seeder: `x[i] = seed[16i .. 16i+15]`. -/
def hashSeeder (seed : Nat → Byte) : Lanes := Vector.ofFn fun i => slice seed (16 * i.val)

/-- The first `n` chunks of a row of chunks at offset `o`, chunk `j` with the quintuple `Q[q + j]`. -/
def hashChunks (data : Nat → Byte) (q o : Nat) : Nat → Lanes → Lanes
  | 0, l => l
  | n + 1, l => hashChunk data (BitVec.ofNat 3 (q + n)) (o + 32 * n) (hashChunks data q o n l)

/-- Block Mixer: the first `n` blocks, eight chunks each. -/
def hashBlocks (data : Nat → Byte) : Nat → Lanes → Lanes
  | 0, l => l
  | n + 1, l => hashChunks data 0 (256 * n) 8 (hashBlocks data n l)

/-- `R`: the last `L mod 32` bytes of the input, followed by zero bytes. -/
def residual (data : Nat → Byte) (len : Nat) (j : Nat) : Byte :=
  if j < len % 32 then data (len - len % 32 + j) else 0#8

/-- Tail Handler: the residual call. -/
def hashResidual (data : Nat → Byte) (len : Nat) (l : Lanes) : Lanes :=
  let x := slice (residual data len) 0
  let z := slice (residual data len) 16
  hashMix 0 (align z x 15) x (align z x 1) z l

/-- Tail Handler: the length call, with `w = 0`, `x = 0`, `y = zext_128(L >> 8)`, `z = zext_128(L)`. -/
def hashLength (len : Nat) (l : Lanes) : Lanes :=
  hashMix 1 0#128 0#128 (BitVec.ofNat 128 (len / 256)) (BitVec.ofNat 128 len) l

/-- One SHUFFLE with the window `S[i]` (R200, R204). -/
def hashShuffle (i : LaneNo) (l : Lanes) : Lanes :=
  let l := putLane l i (aesRound (laneAt l i) (laneAt l (i + 4)))
  let l := putLane l (i + 1) (add64x2 (laneAt l (i + 1)) (laneAt l (i + 5)))
  let l := putLane l (i + 4) (xor128 (laneAt l (i + 4)) (laneAt l (i + 6)))
  let l := putLane l (i + 4) (aesRound (laneAt l (i + 4)) (laneAt l (i + 1)))
  let l := putLane l (i + 5) (add64x2 (laneAt l (i + 5)) (laneAt l (i + 6)))
  putLane l (i + 1) (xor128 (laneAt l (i + 1)) (laneAt l (i + 2)))

/-- The first `n` shuffles of the rotation `i = 0, 1, ..., 7, 0, 1, ...` (R204). -/
def hashShuffles : Nat → Lanes → Lanes
  | 0, l => l
  | n + 1, l => hashShuffle (BitVec.ofNat 3 n) (hashShuffles n l)

/-- The final fold in closed form (R205). -/
def hashFold (l : Lanes) : Lane :=
  add64x2
    (xor128 (add64x2 (laneAt l 0) (laneAt l 2)) (add64x2 (laneAt l 1) (laneAt l 3)))
    (xor128 (add64x2 (laneAt l 4) (laneAt l 6)) (add64x2 (laneAt l 5) (laneAt l 7)))

/-- The lanes when the Tail Handler ends. -/
def hashLanes (seed data : Nat → Byte) (len : Nat) : Lanes :=
  hashChunks data 2 (256 * (len / 256)) (len / 32 % 8)
    (hashLength len (hashResidual data len (hashBlocks data (len / 256) (hashSeeder seed))))

/-- `hash(seed, data)` for an input of `len` bytes (R223). -/
def hash (seed data : Nat → Byte) (len : Nat) : Lane :=
  hashFold (hashShuffles 12 (hashLanes seed data len))

/-- `STEPS(L)` (R225). -/
def stepsOf (len : Nat) : Nat :=
  36 + 18 * (len / 256) + 3 * (len / 32 % 8) + (if len / 32 % 8 < 7 then 1 else 0)

/-- `READS(L)` (R285). -/
def readsOf (len : Nat) : Nat :=
  8 + 4 * (8 * (len / 256) + len / 32 % 8) + (if len % 16 ≠ 0 then 1 else 0) +
    (if len / 16 % 2 = 1 then 1 else 0)

end Sys2Proof.Machine
end

