-- ==== Sys2Proof/Machine/RunReads.lean ====
section
/-! DEFINITION. The addresses a run reads, in the order it reads them (20_memory.md R55). -/

namespace Sys2Proof.Machine

/-- The four reads of a chunk at `p`, in order (R151). -/
def chunkReads (p : Quad) : List Quad := [p + 15#64, p, p + 1#64, p + 16#64]

/-- The reads of the chunks `k` with `first ≤ k < first + n`, chunk `k` at `A + 32*k`. -/
def chunksReads (addr : Quad) (first n : Nat) : List Quad :=
  (List.range n).flatMap fun k => chunkReads (addr + BitVec.ofNat 64 (32 * (first + k)))

/-- All reads of one run, from `S = SEED_ADDR`, `A = DATA_ADDR`, `L = DATA_LEN` (R55). -/
def runReads (seedAddr dataAddr len : Quad) : List Quad :=
  (List.range 8).map (fun i => seedAddr + BitVec.ofNat 64 (16 * i)) ++
  chunksReads dataAddr 0 (8 * (len.toNat / 256)) ++
  (if tailLenOf len = 0 then [] else [partialAddr dataAddr len]) ++
  (if full16Of len then [lastAddr dataAddr len - 16#64] else []) ++
  chunksReads dataAddr (8 * (len.toNat / 256)) (len.toNat / 32 % 8)

end Sys2Proof.Machine
end

