-- ==== Sys2Proof/Safety.lean ====
section
/-!
DEFINITION. The terms the claims are made in: what an action leaves unchanged, the invariants of the
machine, where a run stands, and the precondition of memory under which a run is safe.
-/

namespace Sys2Proof.Machine

/-! ### What is left unchanged -/

/-- `BUSY`, `DONE`, `ERR` and `ERRCODE` are as before: "Flags: none" (41_seeder.md template). -/
structure SameFlags (s t : State) : Prop where
  busy : t.busy = s.busy
  done : t.done = s.done
  err : t.err = s.err
  errCode : t.errCode = s.errCode

/-- The host's parameter registers and the digest are as before. -/
structure SameHostRegs (s t : State) : Prop where
  seedAddr : t.seedAddr = s.seedAddr
  seedLen : t.seedLen = s.seedLen
  dataAddr : t.dataAddr = s.dataAddr
  dataLen : t.dataLen = s.dataLen
  digest : t.digest = s.digest

/-- The injection registers are as before. -/
structure SameInjection (s t : State) : Prop where
  iw : t.iw = s.iw
  ix : t.ix = s.ix
  iy : t.iy = s.iy
  iz : t.iz = s.iz

/-- `PTR` and the two counters are as before. -/
structure SameCounters (s t : State) : Prop where
  ptr : t.ptr = s.ptr
  blkcnt : t.blkcnt = s.blkcnt
  chcnt : t.chcnt = s.chcnt

/-- The lanes outside `ls` are as before. -/
def SameLanesOutside (ls : List LaneNo) (s t : State) : Prop := ∀ j, j ∉ ls → t.lane j = s.lane j

/-- What is outside the block is as before: every byte of memory, which bytes are readable, the ROM,
the script and what the host has read. -/
structure SameOutside (s t : State) : Prop where
  byteAt : ∀ a, t.byteAt a = s.byteAt a
  readable : ∀ a, t.readable a = s.readable a
  rom : t.rom = s.rom
  script : t.script = s.script
  answers : t.answers = s.answers

/-- A micro-operation other than FIN: flags, host registers and everything outside are as before. -/
structure InnerStep (s t : State) : Prop where
  flags : SameFlags s t
  hostRegs : SameHostRegs s t
  outside : SameOutside s t

/-- A host command or write: nothing is read, lanes, injection registers and everything outside are
as before. -/
structure OuterStep (s t : State) : Prop where
  lanes : ∀ j, t.lane j = s.lane j
  injection : SameInjection s t
  outside : SameOutside s t
  reads : t.reads = s.reads

/-- The lanes as a function of the lane number, with lane `i` replaced: an assignment `x[i] <- v`. -/
def updLane (x : LaneNo → Lane) (i : LaneNo) (v : Lane) : LaneNo → Lane := fun j => if j = i then v else x j

/-! ### The invariants -/

/-- The working state is cleared: the state of an idle block (10_state.md R41). -/
structure State.Cleared (s : State) : Prop where
  lanes : ∀ j, s.lane j = 0#128
  iw : s.iw = 0#128
  ix : s.ix = 0#128
  iy : s.iy = 0#128
  iz : s.iz = 0#128
  ptr : s.ptr = 0#64
  blkcnt : s.blkcnt = 0#56
  chcnt : s.chcnt = 0#3
  pc : s.pc = 0#7

/-- What holds of the machine between any two steps. -/
structure State.Inv (s : State) : Prop where
  /-- The ROM holds the micro-program (R63, R221). -/
  rom : s.rom = microProgram
  /-- The memory and the page list keep their canonical form. -/
  mem : Memory.wf s.mem = true
  pages : Pages.wf s.unreadable = true
  /-- At most one of `BUSY`, `DONE`, `ERR` (R23). -/
  busy_done : ¬(s.busy = true ∧ s.done = true)
  busy_err : ¬(s.busy = true ∧ s.err = true)
  done_err : ¬(s.done = true ∧ s.err = true)
  /-- `ERRCODE` is 1 when `ERR = 1` and 0 otherwise: no other code is produced (R23, R251). -/
  errCode : s.errCode = if s.err then 1#4 else 0#4
  /-- `DIGEST` is 0 while `DONE = 0` (R35). -/
  digest : s.done = false → s.digest = 0#128
  /-- The idle invariant (R41). -/
  idle : s.busy = false → s.Cleared
  /-- The reachable micro-program addresses (R222). -/
  pc : s.pc.toNat ≤ 0x49
  /-- A run is in progress only with a 128-byte seed (R224) and objects that do not wrap (R57). -/
  seedLen : s.busy = true → s.seedLen = 128#64
  fits : s.busy = true → s.objectsFit = true

/-- The number of 256-byte blocks of the input. -/
def State.blocks (s : State) : Nat := s.dataLen.toNat / 256

/-- The number of 32-byte chunks after the blocks. -/
def State.chunks (s : State) : Nat := s.dataLen.toNat / 32 % 8

/-- How many chunks the run has loaded, from where it stands: chunk `k` is loaded by the LDC before
the `k`-th MIX of a chunk (R155, R177). -/
def State.chunksLoaded (s : State) : Nat :=
  let k := s.pc.toNat
  if k ≤ 0x07 then 0
  else if k = 0x08 then 8 * (s.blocks - s.blkcnt.toNat)
  else if k ≤ 0x19 then 8 * (s.blocks - s.blkcnt.toNat - 1) + (k - 0x08) / 2
  else if k ≤ 0x21 then 8 * s.blocks
  else if k ≤ 0x35 then 8 * s.blocks + (k - 0x20) / 3
  else 8 * s.blocks + s.chunks

/-- The counters and the pointer of a run agree with where the micro-program stands (R25 to R27,
R156, R177). -/
structure State.OnTrack (s : State) : Prop where
  seeding : s.pc.toNat ≤ 0x07 → s.blkcnt.toNat = s.blocks
  looping : s.pc.toNat = 0x08 → s.blkcnt.toNat ≤ s.blocks
  inBlock : 0x09 ≤ s.pc.toNat → s.pc.toNat ≤ 0x19 → s.blkcnt.toNat < s.blocks
  noBlocks : 0x1A ≤ s.pc.toNat → s.blkcnt.toNat = 0
  allChunks : s.pc.toNat ≤ 0x21 → s.chcnt.toNat = s.chunks
  tailChunks : 0x22 ≤ s.pc.toNat → s.pc.toNat ≤ 0x35 → s.chcnt.toNat + (s.pc.toNat - 0x1F) / 3 = s.chunks
  noChunks : 0x36 ≤ s.pc.toNat → s.chcnt.toNat = 0
  pointer : s.ptr = s.dataAddr + BitVec.ofNat 64 (32 * s.chunksLoaded)

/-- How many steps the run still takes, FIN included (R225). -/
def State.stepsLeft (s : State) : Nat :=
  let k := s.pc.toNat
  let skip := if s.chunks < 7 then 1 else 0
  let fromChunks := 3 * s.chcnt.toNat + skip + 20
  let fromLoop := 18 * s.blkcnt.toNat + 1 + 7 + fromChunks
  if k ≤ 0x07 then (0x08 - k) + fromLoop
  else if k = 0x08 then fromLoop
  else if k ≤ 0x19 then (0x1A - k) + fromLoop
  else if k ≤ 0x21 then (0x21 - k) + fromChunks
  else if k ≤ 0x35 then (2 - (k - 0x22) % 3) % 3 + fromChunks
  else 0x4A - k

/-! ### Safe runs -/

/-- The precondition of R56: every page that holds a byte of the seed or of the input is readable. -/
def State.ownedReadable (s : State) : Prop := ∀ p ∈ s.unreadable, s.ownsPage p = false

/-- What the host owes before it starts a call (R56, R57, R282): an idle block, a seed of 128 bytes,
objects that do not wrap, their pages readable. -/
structure State.CallReady (s : State) : Prop where
  inv : s.Inv
  idle : s.busy = false
  seedLen : s.seedLen = 128#64
  fits : s.objectsFit = true
  readable : s.ownedReadable

/-- What decides where the sequencer goes and what it reads, without the data: `pc`, `BUSY`, the
pointer and the counters, the host's parameters, the ROM, which pages are readable, the script and
the reads so far (70_reset_and_hazards.md R285). Lanes, injection registers, digest and memory
contents may differ. -/
structure SameControl (s t : State) : Prop where
  pc : t.pc = s.pc
  busy : t.busy = s.busy
  counters : SameCounters s t
  seedAddr : t.seedAddr = s.seedAddr
  dataAddr : t.dataAddr = s.dataAddr
  dataLen : t.dataLen = s.dataLen
  rom : t.rom = s.rom
  unreadable : t.unreadable = s.unreadable
  script : t.script = s.script
  reads : t.reads = s.reads

/-- The micro-operations of a list executed one after the other, stopping at the first that gives no
next state. -/
def execAll : List Instr → State → StepResult
  | [], s => .next s
  | i :: rest, s =>
    match exec i s with
    | .next t => execAll rest t
    | .fault r => .fault r
    | .refused r => .refused r

/-- `k` steps of the machine, stopping at the first fault or refusal. -/
def runFor (k : Nat) (s : State) : StepResult := Host.Core.run Sys2Proof.core k s

end Sys2Proof.Machine
end

