-- ==== Sys2Proof/Certificates/Slice0/Obligations.lean ====
section
/-!
DEFINITION. The statements for the provers. Each says in Lean what OBLIGATIONS.json says of it in
words; it states and never proves.
-/

open Sys2Proof Sys2Proof.Machine

/-! ### Encoding -/

/-- R86: `decode` case by case, `decode(encode(m)) = m` for every term, and `encode(decode(w)) = w` for
every legal word. -/
def Obligations.DecodeAndEncodeAreInverse : Prop :=
  (∀ i : Instr, decode (encode i) = .ok i) ∧
  (∀ (w : UopWord) (i : Instr), decode w = .ok i → encode i = w) ∧
  (∀ w : UopWord,
    let op := w.extractLsb' 28 4
    let a := w.extractLsb' 0 3; let b := w.extractLsb' 3 3; let c := w.extractLsb' 6 3
    let d := w.extractLsb' 9 3; let e := w.extractLsb' 12 3; let f := w.extractLsb' 15 3
    let t := w.extractLsb' 0 7
    let orIllegal (reserved : Nat) (i : Instr) : Except Illegal Instr :=
      if reserved = 0 then .ok i else .error .reservedBit
    let none27 := (w.extractLsb' 0 28).toNat
    let above27 (n : Nat) := (w.extractLsb' n (28 - n)).toNat
    (op = 0x1#4 → decode w = orIllegal (above27 3) (.seed a)) ∧
    (op = 0x2#4 → decode w = orIllegal (above27 7) (.blk t)) ∧
    (op = 0x3#4 → decode w = orIllegal none27 .ldc) ∧
    (op = 0x4#4 → decode w = orIllegal (above27 15) (.mix a b c d e)) ∧
    (op = 0x5#4 → decode w = orIllegal (above27 7) (.jmp t)) ∧
    (op = 0x6#4 → decode w = orIllegal none27 .ldp) ∧
    (op = 0x7#4 → decode w = orIllegal none27 .ldf) ∧
    (op = 0x8#4 → decode w = orIllegal none27 .inj) ∧
    (op = 0x9#4 → decode w = orIllegal none27 .lenv) ∧
    (op = 0xA#4 → decode w = orIllegal (above27 7) (.chk t)) ∧
    (op = 0xB#4 → decode w = orIllegal (above27 18) (.shuf a b c d e f)) ∧
    (op = 0xC#4 → decode w = orIllegal (above27 6) (.addq a b)) ∧
    (op = 0xD#4 → decode w = orIllegal (above27 6) (.xorv a b)) ∧
    (op = 0xE#4 → decode w = orIllegal none27 .fin) ∧
    (op = 0x0#4 ∨ op = 0xF#4 → decode w = .error .opcode))

/-- R82: a word is the micro-operation of a row exactly when `(w & mask) = match`, and the rows are
disjoint. -/
def Obligations.RowsOfTheOpcodeMapDecideTheMnemonic : Prop :=
  (∀ (w : UopWord) (r : OpcodeRow), r ∈ opcodeRows →
    (w &&& r.mask = r.pattern ↔ ∃ i, decode w = .ok i ∧ i.mnemonic = r.mnemonic)) ∧
  (∀ (w : UopWord) (r q : OpcodeRow), r ∈ opcodeRows → q ∈ opcodeRows →
    w &&& r.mask = r.pattern → w &&& q.mask = q.pattern → r = q)

/-- R85: a word is illegal when its opcode is 0x0 or 0xF or a reserved bit of its format is 1; the
decoder says which, and a busy sequencer refuses it. -/
def Obligations.IllegalWordsAreRefused : Prop :=
  (∀ w : UopWord, decode w = .error .opcode ↔ (w.extractLsb' 28 4 = 0x0#4 ∨ w.extractLsb' 28 4 = 0xF#4)) ∧
  (∀ w : UopWord, decode w = .error .reservedBit ↔
    ∃ r ∈ opcodeRows, w.extractLsb' 28 4 = r.pattern.extractLsb' 28 4 ∧
      w &&& r.mask &&& 0x0FFFFFFF#32 ≠ 0#32) ∧
  (∀ w : UopWord, legalWord w = false ↔ ∃ e, decode w = .error e) ∧
  (∀ s : State, s.busy = true → s.script = [] → legalWord s.fetch = false →
    step s = .refused (.illegalWord s.fetch))

/-- Words written out from the encodings of R81 and R82, one for each format. -/
def Obligations.SampleWordsDecode : Prop :=
  decode 0x10000007#32 = .ok (.seed 7) ∧ decode 0x2000007F#32 = .ok (.blk 0x7F) ∧
  decode 0x30000000#32 = .ok .ldc ∧ decode 0x400058D1#32 = .ok (.mix 1 2 3 4 5) ∧
  decode 0xB00014E5#32 = .ok (.shuf 5 4 3 2 1 0) ∧ decode 0xC0000003#32 = .ok (.addq 3 0) ∧
  decode 0xD0000032#32 = .ok (.xorv 2 6) ∧ decode 0xA0000136#32 = .error .reservedBit ∧
  decode 0xF0000000#32 = .error .opcode

/-- R221: every ROM word decodes to the micro-operation of the schedules, and the words above 0x49 are
illegal. -/
def Obligations.MicroProgramDecodesToTheSchedules : Prop :=
  listing.length = 74 ∧
  (∀ (k : Nat) (h : k < 128) (i : Instr), listing[k]? = some i → decode (microProgram[k]) = .ok i) ∧
  (∀ (k : Nat) (h : k < 128), 74 ≤ k → microProgram[k] = 0#32 ∧ decode (microProgram[k]) = .error .opcode)

/-! ### Datapath -/

/-- R50: the bytes of a read. -/
def Obligations.ReadBytesAreLittleEndian : Prop :=
  ∀ (s : State) (addr : Quad) (i : Nat), i < 16 →
    (s.window addr).extractLsb' (8 * i) 8 = s.byteAt (addr + BitVec.ofNat 64 i)

/-- R110: the AES round is InvShiftRows, InvSubBytes, InvMixColumns, then the key; the first two commute;
two keys differ in the result as they differ; for a fixed key it is a bijection of the state. -/
def Obligations.AesRoundIsABijectionOfTheState : Prop :=
  (∀ s k : Lane, aesRound s k = invMixColumns (invSubBytes (invShiftRows s)) ^^^ k) ∧
  (∀ s : Lane, invSubBytes (invShiftRows s) = invShiftRows (invSubBytes s)) ∧
  aesRound 0#128 0#128 = 0x52525252525252525252525252525252#128 ∧
  (∀ s k k' : Lane, aesRound s k ^^^ aesRound s k' = k ^^^ k') ∧
  (∀ k : Lane, Function.Bijective fun s => aesRound s k)

/-- R111: InvShiftRows as the byte permutation of the table. -/
def Obligations.InvShiftRowsPermutesTheBytes : Prop :=
  ∀ s : Lane,
    (∀ i, i < 16 → byteOf (invShiftRows s) i =
      byteOf s ([0, 13, 10, 7, 4, 1, 14, 11, 8, 5, 2, 15, 12, 9, 6, 3].getD i 0)) ∧
    (∀ i, i < 16 → byteOf (invShiftRows s) i = byteOf s (13 * i % 16)) ∧
    (∀ r c, r < 4 → c < 4 → aesCell (invShiftRows s) r c = aesCell s r ((c + 4 - r) % 4))

/-- R112: the table is the inverse of the S-box built from field inversion. -/
def Obligations.InvSboxInvertsTheSbox : Prop :=
  (∀ u v : Byte, gmul u v = 1#8 ∨ (u = 0#8 ∧ v = 0#8) →
    invSbox (u ^^^ u.rotateLeft 1 ^^^ u.rotateLeft 2 ^^^ u.rotateLeft 3 ^^^ u.rotateLeft 4 ^^^ 0x63#8) = v) ∧
  Function.Bijective invSbox ∧
  (∀ (s : Lane) (i : Nat), i < 16 → byteOf (invSubBytes s) i = invSbox (byteOf s i))

/-- R113, R114: the four rows of InvMixColumns, its linearity and its fixed columns. -/
def Obligations.InvMixColumnsIsTheMatrix : Prop :=
  (∀ (s : Lane) (c : Nat), c < 4 →
    let s0 := byteOf s (4 * c); let s1 := byteOf s (4 * c + 1)
    let s2 := byteOf s (4 * c + 2); let s3 := byteOf s (4 * c + 3)
    byteOf (invMixColumns s) (4 * c) = gmul 0x0E s0 ^^^ gmul 0x0B s1 ^^^ gmul 0x0D s2 ^^^ gmul 0x09 s3 ∧
    byteOf (invMixColumns s) (4 * c + 1) = gmul 0x09 s0 ^^^ gmul 0x0E s1 ^^^ gmul 0x0B s2 ^^^ gmul 0x0D s3 ∧
    byteOf (invMixColumns s) (4 * c + 2) = gmul 0x0D s0 ^^^ gmul 0x09 s1 ^^^ gmul 0x0E s2 ^^^ gmul 0x0B s3 ∧
    byteOf (invMixColumns s) (4 * c + 3) = gmul 0x0B s0 ^^^ gmul 0x0D s1 ^^^ gmul 0x09 s2 ^^^ gmul 0x0E s3) ∧
  (∀ p q : Lane, invMixColumns (p ^^^ q) = invMixColumns p ^^^ invMixColumns q) ∧
  invMixColumns 0#128 = 0#128 ∧
  (∀ (s : Lane) (c : Nat) (v : Byte), c < 4 → (∀ r, r < 4 → aesCell s r c = v) →
    ∀ r, r < 4 → aesCell (invMixColumns s) r c = v)

/-- R114: the field product as the xor of repeated doublings, and by the constants of the matrix. -/
def Obligations.FieldProductByDoubling : Prop :=
  (∀ v : Byte, xtime v = if v.getLsbD 7 then (v <<< 1) ^^^ 0x1B#8 else v <<< 1) ∧
  (∀ c v : Byte, gmul c v =
    (List.range 8).foldl (fun acc j => if c.getLsbD j then acc ^^^ xtime^[j] v else acc) 0#8) ∧
  (∀ v : Byte, gmul 0x09 v = xtime (xtime (xtime v)) ^^^ v) ∧
  (∀ v : Byte, gmul 0x0B v = xtime (xtime (xtime v)) ^^^ xtime v ^^^ v) ∧
  (∀ v : Byte, gmul 0x0D v = xtime (xtime (xtime v)) ^^^ xtime (xtime v) ^^^ v) ∧
  (∀ v : Byte, gmul 0x0E v = xtime (xtime (xtime v)) ^^^ xtime (xtime v) ^^^ xtime v) ∧
  gmul 0x57 0x83 = 0xC1#8 ∧ gmul 0x57 0x13 = 0xFE#8

/-- R116: the quadwords add independently, modulo `2^64`, as little-endian integers of their bytes. -/
def Obligations.QuadwordsAddIndependently : Prop :=
  ∀ p q : Lane,
    ((add64x2 p q).extractLsb' 0 64).toNat =
      ((p.extractLsb' 0 64).toNat + (q.extractLsb' 0 64).toNat) % 2 ^ 64 ∧
    ((add64x2 p q).extractLsb' 64 64).toNat =
      ((p.extractLsb' 64 64).toNat + (q.extractLsb' 64 64).toNat) % 2 ^ 64 ∧
    (p.extractLsb' 0 64).toNat = ((List.range 8).map fun i => (byteOf p i).toNat * 256 ^ i).sum ∧
    (p.extractLsb' 64 64).toNat = ((List.range 8).map fun i => (byteOf p (8 + i)).toNat * 256 ^ i).sum

/-- R118: `align` by bytes and as an integer shift of the concatenation. -/
def Obligations.AlignShiftsTheConcatenation : Prop :=
  ∀ (p q : Lane) (k : Nat), k ≤ 16 →
    (∀ i, i < 16 → byteOf (align p q k) i = if k + i < 16 then byteOf p (k + i) else byteOf q (k + i - 16)) ∧
    align p q k = (((q ++ p : BitVec (128 + 128)) >>> (8 * k)).setWidth 128)

/-- R119: `rotbytes` by bytes; it undoes a backward shift of the window. -/
def Obligations.RotbytesBringsByteNToTheFront : Prop :=
  ∀ (v : Lane) (n : Nat), n < 16 →
    (∀ i, i < 16 → byteOf (rotbytes v n) i = byteOf v ((i + n) % 16)) ∧
    rotbytes v 0 = v ∧ rotbytes v n = v.rotateRight (8 * n)

/-- R120: `maskbytes` by bytes and as a mask. -/
def Obligations.MaskbytesKeepsTheLowBytes : Prop :=
  ∀ (v : Lane) (m : Nat), m ≤ 16 →
    (∀ i, i < 16 → byteOf (maskbytes v m) i = if i < m then byteOf v i else 0#8) ∧
    maskbytes v m = v &&& BitVec.ofNat 128 (2 ^ (8 * m) - 1)

/-! ### Micro-operations: result, frame, completion -/

/-- R140, `SEED a`. -/
def Obligations.SeedLoadsItsLane : Prop :=
  ∀ (a : LaneNo) (s : State),
    encode (.seed a) = 0x10000000#32 ||| a.setWidth 32 ∧
    (let addr := s.seedAddr + BitVec.ofNat 64 (16 * a.toNat)
     (s.windowReadable addr = true →
       ∃ t, exec (.seed a) s = .next t ∧
         t.lane a = s.window addr ∧ SameLanesOutside [a] s t ∧
         t.pc = s.pc + 1#7 ∧ t.reads = s.reads ++ [addr] ∧
         SameInjection s t ∧ SameCounters s t ∧ InnerStep s t) ∧
     (s.windowReadable addr = false → exec (.seed a) s = .fault (.unreadable addr)))

/-- R150, `BLK t`. -/
def Obligations.BlkBranchesOrCountsDown : Prop :=
  ∀ (target : UAddr) (s : State),
    encode (.blk target) = 0x20000000#32 ||| target.setWidth 32 ∧
    ∃ t, exec (.blk target) s = .next t ∧
      (s.blkcnt = 0#56 → t.pc = target ∧ t.blkcnt = 0#56) ∧
      (s.blkcnt ≠ 0#56 → t.pc = s.pc + 1#7 ∧ t.blkcnt.toNat = s.blkcnt.toNat - 1) ∧
      t.ptr = s.ptr ∧ t.chcnt = s.chcnt ∧ t.reads = s.reads ∧
      SameLanesOutside [] s t ∧ SameInjection s t ∧ InnerStep s t

/-- R151, `LDC`: the four reads in order; the first unreadable one stops the run. The window at
`p + 1` lies inside the two read before it, so it is never the first. -/
def Obligations.LdcLoadsTheChunkAtPtr : Prop :=
  encode .ldc = 0x30000000#32 ∧
  ∀ s : State,
    let p := s.ptr
    (s.windowReadable (p + 15#64) = true → s.windowReadable p = true →
      s.windowReadable (p + 1#64) = true → s.windowReadable (p + 16#64) = true →
      ∃ t, exec .ldc s = .next t ∧
        t.iw = s.window (p + 15#64) ∧ t.ix = s.window p ∧
        t.iy = s.window (p + 1#64) ∧ t.iz = s.window (p + 16#64) ∧
        t.ptr.toNat = (p.toNat + 32) % 2 ^ 64 ∧ t.pc = s.pc + 1#7 ∧
        t.reads = s.reads ++ [p + 15#64, p, p + 1#64, p + 16#64] ∧
        t.blkcnt = s.blkcnt ∧ t.chcnt = s.chcnt ∧ SameLanesOutside [] s t ∧ InnerStep s t) ∧
    (s.windowReadable (p + 15#64) = false → exec .ldc s = .fault (.unreadable (p + 15#64))) ∧
    (s.windowReadable (p + 15#64) = true → s.windowReadable p = false →
      exec .ldc s = .fault (.unreadable p)) ∧
    (s.windowReadable (p + 15#64) = true → s.windowReadable p = true →
      s.windowReadable (p + 1#64) = true → s.windowReadable (p + 16#64) = false →
      exec .ldc s = .fault (.unreadable (p + 16#64)))

/-- R152, `MIX a,b,c,d,e`: the six assignments in order, for any five lanes, equal ones too. -/
def Obligations.MixMakesSixAssignments : Prop :=
  ∀ (a b c d e : LaneNo) (s : State),
    encode (.mix a b c d e) = 0x40000000#32 ||| (e.setWidth 32 <<< 12) ||| (d.setWidth 32 <<< 9) |||
      (c.setWidth 32 <<< 6) ||| (b.setWidth 32 <<< 3) ||| a.setWidth 32 ∧
    ∃ t, exec (.mix a b c d e) s = .next t ∧
      (let x1 := updLane s.lane a (aesRound (s.lane a) (s.lane b))
       let x2 := updLane x1 c (add64x2 (x1 c) s.iw)
       let x3 := updLane x2 b (x2 b ^^^ s.ix)
       let x4 := updLane x3 b (aesRound (x3 b) (x3 d))
       let x5 := updLane x4 e (add64x2 (x4 e) s.iy)
       let x6 := updLane x5 d (x5 d ^^^ s.iz)
       ∀ j, t.lane j = x6 j) ∧
      t.pc = s.pc + 1#7 ∧ t.reads = s.reads ∧ SameLanesOutside [a, b, c, d, e] s t ∧
      SameInjection s t ∧ SameCounters s t ∧ InnerStep s t

/-- R153, `JMP t`. -/
def Obligations.JmpGoesToItsTarget : Prop :=
  ∀ (target : UAddr) (s : State),
    encode (.jmp target) = 0x50000000#32 ||| target.setWidth 32 ∧
    ∃ t, exec (.jmp target) s = .next t ∧ t.pc = target ∧ t.reads = s.reads ∧
      SameLanesOutside [] s t ∧ SameInjection s t ∧ SameCounters s t ∧ InnerStep s t

/-- R170, `LDP`: with `tailLen = 0` no read and `IX = IZ = 0`; otherwise the shifted, rotated and
masked window. -/
def Obligations.LdpLoadsThePartial : Prop :=
  encode .ldp = 0x60000000#32 ∧
  ∀ s : State,
    let tailLen := s.dataLen.toNat % 16
    let aLast := s.dataAddr + (s.dataLen &&& ~~~0xF#64)
    let pageLast := (s.dataAddr + s.dataLen - 1#64) ||| 0xFFF#64
    let shift := if aLast.toNat + 15 > pageLast.toNat then aLast.toNat % 16 else 0
    let addr := aLast - BitVec.ofNat 64 shift
    (tailLen = 0 →
      ∃ t, exec .ldp s = .next t ∧ t.ix = 0#128 ∧ t.iz = 0#128 ∧ t.iw = s.iw ∧ t.iy = s.iy ∧
        t.pc = s.pc + 1#7 ∧ t.reads = s.reads ∧
        SameLanesOutside [] s t ∧ SameCounters s t ∧ InnerStep s t) ∧
    (tailLen ≠ 0 → s.windowReadable addr = true →
      ∃ t, exec .ldp s = .next t ∧
        (∀ i, i < 16 → byteOf t.ix i =
          if i < tailLen then s.byteAt (addr + BitVec.ofNat 64 ((i + shift) % 16)) else 0#8) ∧
        t.iz = 0#128 ∧ t.iw = s.iw ∧ t.iy = s.iy ∧
        t.pc = s.pc + 1#7 ∧ t.reads = s.reads ++ [addr] ∧
        SameLanesOutside [] s t ∧ SameCounters s t ∧ InnerStep s t) ∧
    (tailLen ≠ 0 → s.windowReadable addr = false → exec .ldp s = .fault (.unreadable addr))

/-- R171, `LDF`. -/
def Obligations.LdfMovesThePartialAndLoads : Prop :=
  encode .ldf = 0x70000000#32 ∧
  ∀ s : State,
    let addr := s.dataAddr + (s.dataLen &&& ~~~0xF#64) - 16#64
    (s.dataLen.getLsbD 4 = true → s.windowReadable addr = true →
      ∃ t, exec .ldf s = .next t ∧ t.iz = s.ix ∧ t.ix = s.window addr ∧ t.iw = s.iw ∧ t.iy = s.iy ∧
        t.pc = s.pc + 1#7 ∧ t.reads = s.reads ++ [addr] ∧
        SameLanesOutside [] s t ∧ SameCounters s t ∧ InnerStep s t) ∧
    (s.dataLen.getLsbD 4 = true → s.windowReadable addr = false →
      exec .ldf s = .fault (.unreadable addr)) ∧
    (s.dataLen.getLsbD 4 = false →
      ∃ t, exec .ldf s = .next t ∧ t.pc = s.pc + 1#7 ∧ t.reads = s.reads ∧
        SameLanesOutside [] s t ∧ SameInjection s t ∧ SameCounters s t ∧ InnerStep s t)

/-- R172, `INJ`: byte by byte. -/
def Obligations.InjAlignsIzBeforeIx : Prop :=
  encode .inj = 0x80000000#32 ∧
  ∀ s : State,
    ∃ t, exec .inj s = .next t ∧
      byteOf t.iw 0 = byteOf s.iz 15 ∧ (∀ i, i < 15 → byteOf t.iw (i + 1) = byteOf s.ix i) ∧
      (∀ i, i < 15 → byteOf t.iy i = byteOf s.iz (i + 1)) ∧ byteOf t.iy 15 = byteOf s.ix 0 ∧
      t.ix = s.ix ∧ t.iz = s.iz ∧ t.pc = s.pc + 1#7 ∧ t.reads = s.reads ∧
      SameLanesOutside [] s t ∧ SameCounters s t ∧ InnerStep s t

/-- R173, `LENV`. -/
def Obligations.LenvLoadsTheLength : Prop :=
  encode .lenv = 0x90000000#32 ∧
  ∀ s : State,
    ∃ t, exec .lenv s = .next t ∧
      t.ix = 0#128 ∧ t.iz.toNat = s.dataLen.toNat ∧ t.iw = s.iw ∧ t.iy = s.iy ∧
      t.pc = s.pc + 1#7 ∧ t.reads = s.reads ∧
      SameLanesOutside [] s t ∧ SameCounters s t ∧ InnerStep s t

/-- R174, `CHK t`. -/
def Obligations.ChkBranchesOrCountsDown : Prop :=
  ∀ (target : UAddr) (s : State),
    encode (.chk target) = 0xA0000000#32 ||| target.setWidth 32 ∧
    ∃ t, exec (.chk target) s = .next t ∧
      (s.chcnt = 0#3 → t.pc = target ∧ t.chcnt = 0#3) ∧
      (s.chcnt ≠ 0#3 → t.pc = s.pc + 1#7 ∧ t.chcnt.toNat = s.chcnt.toNat - 1) ∧
      t.ptr = s.ptr ∧ t.blkcnt = s.blkcnt ∧ t.reads = s.reads ∧
      SameLanesOutside [] s t ∧ SameInjection s t ∧ InnerStep s t

/-- R200, `SHUF a,b,c,d,e,f`: the six assignments in order, for any six lanes, equal ones too. -/
def Obligations.ShufMakesSixAssignments : Prop :=
  ∀ (a b c d e f : LaneNo) (s : State),
    encode (.shuf a b c d e f) = 0xB0000000#32 ||| (f.setWidth 32 <<< 15) ||| (e.setWidth 32 <<< 12) |||
      (d.setWidth 32 <<< 9) ||| (c.setWidth 32 <<< 6) ||| (b.setWidth 32 <<< 3) ||| a.setWidth 32 ∧
    ∃ t, exec (.shuf a b c d e f) s = .next t ∧
      (let x1 := updLane s.lane a (aesRound (s.lane a) (s.lane d))
       let x2 := updLane x1 b (add64x2 (x1 b) (x1 e))
       let x3 := updLane x2 d (x2 d ^^^ x2 f)
       let x4 := updLane x3 d (aesRound (x3 d) (x3 b))
       let x5 := updLane x4 e (add64x2 (x4 e) (x4 f))
       let x6 := updLane x5 b (x5 b ^^^ x5 c)
       ∀ j, t.lane j = x6 j) ∧
      t.pc = s.pc + 1#7 ∧ t.reads = s.reads ∧ SameLanesOutside [a, b, d, e] s t ∧
      SameInjection s t ∧ SameCounters s t ∧ InnerStep s t

/-- R152 and R200 with distinct lanes, as in the micro-program (R83): each lane in closed form. -/
def Obligations.DistinctLanesMixInClosedForm : Prop :=
  (∀ (a b c d e : LaneNo) (s : State), [a, b, c, d, e].Nodup →
    ∃ t, exec (.mix a b c d e) s = .next t ∧
      t.lane a = aesRound (s.lane a) (s.lane b) ∧
      t.lane b = aesRound (s.lane b ^^^ s.ix) (s.lane d) ∧
      t.lane c = add64x2 (s.lane c) s.iw ∧
      t.lane d = s.lane d ^^^ s.iz ∧
      t.lane e = add64x2 (s.lane e) s.iy) ∧
  (∀ (a b c d e f : LaneNo) (s : State), [a, b, c, d, e, f].Nodup →
    ∃ t, exec (.shuf a b c d e f) s = .next t ∧
      t.lane a = aesRound (s.lane a) (s.lane d) ∧
      t.lane b = add64x2 (s.lane b) (s.lane e) ^^^ s.lane c ∧
      t.lane d = aesRound (s.lane d ^^^ s.lane f) (add64x2 (s.lane b) (s.lane e)) ∧
      t.lane e = add64x2 (s.lane e) (s.lane f) ∧
      t.lane c = s.lane c ∧ t.lane f = s.lane f)

/-- R201, `ADDQ a,b`: `ADDQ a,a` doubles each quadword. -/
def Obligations.AddqAddsTwoLanes : Prop :=
  ∀ (a b : LaneNo) (s : State),
    encode (.addq a b) = 0xC0000000#32 ||| (b.setWidth 32 <<< 3) ||| a.setWidth 32 ∧
    ∃ t, exec (.addq a b) s = .next t ∧
      (t.lane a).extractLsb' 0 64 = (s.lane a).extractLsb' 0 64 + (s.lane b).extractLsb' 0 64 ∧
      (t.lane a).extractLsb' 64 64 = (s.lane a).extractLsb' 64 64 + (s.lane b).extractLsb' 64 64 ∧
      t.pc = s.pc + 1#7 ∧ t.reads = s.reads ∧ SameLanesOutside [a] s t ∧
      SameInjection s t ∧ SameCounters s t ∧ InnerStep s t

/-- R202, `XORV a,b`: `XORV a,a` clears the lane. -/
def Obligations.XorvXorsTwoLanes : Prop :=
  ∀ (a b : LaneNo) (s : State),
    encode (.xorv a b) = 0xD0000000#32 ||| (b.setWidth 32 <<< 3) ||| a.setWidth 32 ∧
    ∃ t, exec (.xorv a b) s = .next t ∧
      t.lane a = s.lane a ^^^ s.lane b ∧ (a = b → t.lane a = 0#128) ∧
      t.pc = s.pc + 1#7 ∧ t.reads = s.reads ∧ SameLanesOutside [a] s t ∧
      SameInjection s t ∧ SameCounters s t ∧ InnerStep s t

/-- R203, `FIN`. -/
def Obligations.FinDeliversTheDigest : Prop :=
  encode .fin = 0xE0000000#32 ∧
  ∀ s : State,
    ∃ t, exec .fin s = .next t ∧
      t.digest = s.lane 0 ∧ t.Cleared ∧ t.done = true ∧ t.busy = false ∧
      t.err = s.err ∧ t.errCode = s.errCode ∧
      t.seedAddr = s.seedAddr ∧ t.seedLen = s.seedLen ∧ t.dataAddr = s.dataAddr ∧ t.dataLen = s.dataLen ∧
      t.reads = s.reads ∧ SameOutside s t

/-! ### Rules over all micro-operations -/

/-- R53, R38, R28: no micro-operation writes memory, the ROM or a parameter register. -/
def Obligations.NoMicroOperationWritesOutside : Prop :=
  ∀ (i : Instr) (s t : State), exec i s = .next t →
    SameOutside s t ∧ t.seedAddr = s.seedAddr ∧ t.seedLen = s.seedLen ∧
    t.dataAddr = s.dataAddr ∧ t.dataLen = s.dataLen

/-- R23: no micro-operation other than FIN writes a flag; the digest is FIN's alone too (R35). -/
def Obligations.OnlyFinWritesFlagsAndDigest : Prop :=
  ∀ (i : Instr) (s t : State), exec i s = .next t →
    t.err = s.err ∧ t.errCode = s.errCode ∧
    (i ≠ .fin → t.busy = s.busy ∧ t.done = s.done ∧ t.digest = s.digest) ∧
    (i = .fin → t.busy = false ∧ t.done = true ∧ t.digest = s.lane 0)

/-- R285, derived there: no read address and no branch depends on a data byte, a seed byte or a lane.
Two states that differ only in those go the same way and read the same addresses. -/
def Obligations.DataDecidesNoAddressAndNoBranch : Prop :=
  ∀ s s' : State, SameControl s s' →
    (∀ t, sequencerTurn s = .next t → ∃ t', sequencerTurn s' = .next t' ∧ SameControl t t') ∧
    (∀ r, sequencerTurn s = .fault r → sequencerTurn s' = .fault r) ∧
    (∀ r, sequencerTurn s = .refused r → sequencerTurn s' = .refused r)

/-! ### The step rule, the host's commands and registers, reset -/

/-- R220: with `BUSY = 1` the sequencer's step executes the micro-operation its word decodes to. -/
def Obligations.StepRunsTheDecodedInstruction : Prop :=
  ∀ (s : State) (i : Instr), s.busy = true → decode s.fetch = .ok i →
    (s.script = [] → step s = exec i s) ∧
    (∀ rest, s.script = .sequencer :: rest → step s = exec i { s with script := rest })

/-- The turns of the script, the model's own (log 4, log 5): a host action at its head is the step; an
idle sequencer holds the state. -/
def Obligations.StepFollowsTheScript : Prop :=
  ∀ s : State,
    (∀ a rest, s.script = .host a :: rest → step s = hostAct a { s with script := rest }) ∧
    (s.busy = false → s.script = [] → step s = .next s) ∧
    (s.busy = false → ∀ rest, s.script = .sequencer :: rest → step s = .next { s with script := rest })

/-- R224: START, accepted, rejected, ignored. The accepting clause has the host's precondition of R57. -/
def Obligations.StartBeginsARunOrRejects : Prop :=
  ∀ (s : State) (v : Quad), v.getLsbD 0 = true →
    (s.busy = true → hostAct (.write .ctrl v) s = .next s) ∧
    (s.busy = false → s.seedLen ≠ 128#64 →
      ∃ t, hostAct (.write .ctrl v) s = .next t ∧
        t.busy = false ∧ t.done = false ∧ t.err = true ∧ t.errCode = 1#4 ∧ t.digest = 0#128 ∧
        t.pc = s.pc ∧ SameCounters s t ∧
        t.seedAddr = s.seedAddr ∧ t.seedLen = s.seedLen ∧ t.dataAddr = s.dataAddr ∧
        t.dataLen = s.dataLen ∧ OuterStep s t) ∧
    (s.busy = false → s.seedLen = 128#64 →
      s.seedAddr.toNat + 128 ≤ 2 ^ 64 → s.dataAddr.toNat + s.dataLen.toNat ≤ 2 ^ 64 →
      ∃ t, hostAct (.write .ctrl v) s = .next t ∧
        t.busy = true ∧ t.done = false ∧ t.err = false ∧ t.errCode = 0#4 ∧ t.digest = 0#128 ∧
        t.ptr = s.dataAddr ∧ t.blkcnt.toNat = s.dataLen.toNat / 256 ∧
        t.chcnt.toNat = s.dataLen.toNat / 32 % 8 ∧ t.pc = 0#7 ∧
        t.seedAddr = s.seedAddr ∧ t.seedLen = s.seedLen ∧ t.dataAddr = s.dataAddr ∧
        t.dataLen = s.dataLen ∧ OuterStep s t)

/-- The refusal of a START whose seed or input wraps around the top of the address space (R57); that the
seed length is checked before it is the model's reading (log 7). -/
def Obligations.WrappingObjectsAreRefused : Prop :=
  ∀ (s : State) (v : Quad), v.getLsbD 0 = true → s.busy = false →
    ¬(s.seedAddr.toNat + 128 ≤ 2 ^ 64 ∧ s.dataAddr.toNat + s.dataLen.toNat ≤ 2 ^ 64) →
    (s.seedLen = 128#64 → hostAct (.write .ctrl v) s = .refused .objectWraps) ∧
    (s.seedLen ≠ 128#64 → ∃ t, hostAct (.write .ctrl v) s = .next t ∧ t.err = true ∧ t.busy = false)

/-- R253: in an idle block (R41) a START with any other seed length reports InvalidSeedLength, and the
block stays as an idle block is, with no read issued and no digest. -/
def Obligations.WrongSeedLengthIsReported : Prop :=
  ∀ (s : State) (v : Quad), s.Inv → s.busy = false → v.getLsbD 0 = true → s.seedLen ≠ 128#64 →
    ∃ t, hostAct (.write .ctrl v) s = .next t ∧
      t.err = true ∧ t.errCode = 1#4 ∧ t.busy = false ∧ t.done = false ∧ t.digest = 0#128 ∧
      t.Cleared ∧ t.reads = s.reads ∧
      t.seedAddr = s.seedAddr ∧ t.seedLen = s.seedLen ∧ t.dataAddr = s.dataAddr ∧
      t.dataLen = s.dataLen ∧ SameOutside s t

/-- R226: CLR, also as the way out of the error (R258); while `BUSY = 1` it is ignored. -/
def Obligations.ClrClearsTheStatusAlone : Prop :=
  ∀ (s : State) (v : Quad), v.getLsbD 0 = false → v.getLsbD 1 = true →
    (s.busy = true → hostAct (.write .ctrl v) s = .next s) ∧
    (s.busy = false →
      ∃ t, hostAct (.write .ctrl v) s = .next t ∧
        t.done = false ∧ t.err = false ∧ t.errCode = 0#4 ∧ t.digest = 0#128 ∧ t.busy = false ∧
        t.pc = s.pc ∧ SameCounters s t ∧
        t.seedAddr = s.seedAddr ∧ t.seedLen = s.seedLen ∧ t.dataAddr = s.dataAddr ∧
        t.dataLen = s.dataLen ∧ OuterStep s t)

/-- R37: while `BUSY = 1` every host write is ignored; a host read is always allowed and changes
nothing of the block (its answer is the model's own record, log 9). -/
def Obligations.HostWritesAreIgnoredWhileBusy : Prop :=
  (∀ (s : State) (r : HostReg) (v : Quad), s.busy = true → hostAct (.write r v) s = .next s) ∧
  (∀ (s : State) (r : HostReg), ∃ t, hostAct (.read r) s = .next t ∧ { t with answers := s.answers } = s)

/-- R228, R29: a write of an idle block stores a parameter whole, performs a command or is ignored;
START wins over CLR and the reserved bits of CTRL do nothing. -/
def Obligations.HostWritesStoreParameters : Prop :=
  ∀ (s : State) (v : Quad),
    (s.busy = true → ∀ r, hostAct (.write r v) s = .next s) ∧
    (s.busy = false →
      hostAct (.write .seedAddr v) s = .next { s with seedAddr := v } ∧
      hostAct (.write .seedLen v) s = .next { s with seedLen := v } ∧
      hostAct (.write .dataAddr v) s = .next { s with dataAddr := v } ∧
      hostAct (.write .dataLen v) s = .next { s with dataLen := v } ∧
      hostAct (.write .status v) s = .next s ∧
      hostAct (.write .digestLo v) s = .next s ∧
      hostAct (.write .digestHi v) s = .next s ∧
      (v.getLsbD 0 = true → hostAct (.write .ctrl v) s = startCommand s) ∧
      (v.getLsbD 0 = false → v.getLsbD 1 = true → hostAct (.write .ctrl v) s = clrCommand s) ∧
      (v.getLsbD 0 = false → v.getLsbD 1 = false → hostAct (.write .ctrl v) s = .next s)) ∧
    hostRead .ctrl s = 0#64

/-- R227, R30: what a host read returns; it changes nothing but the host's own record (log 9). -/
def Obligations.HostReadsReturnTheRegisters : Prop :=
  ∀ s : State,
    (∀ r, hostAct (.read r) s = .next { s with answers := s.answers ++ [(r, hostRead r s)] }) ∧
    hostRead .ctrl s = 0#64 ∧
    (hostRead .status s).toNat =
      s.errCode.toNat * 16 + s.err.toNat * 4 + s.done.toNat * 2 + s.busy.toNat ∧
    hostRead .seedAddr s = s.seedAddr ∧ hostRead .seedLen s = s.seedLen ∧
    hostRead .dataAddr s = s.dataAddr ∧ hostRead .dataLen s = s.dataLen ∧
    hostRead .digestLo s = s.digest.extractLsb' 0 64 ∧
    hostRead .digestHi s = s.digest.extractLsb' 64 64 ∧
    s.doneOut = s.done

/-- R40, R281: after reset every piece of the block's state is 0; R280: `rst` at any time brings it
there, and memory is not affected. -/
def Obligations.ResetLeavesZeroEverywhere : Prop :=
  (State.reset.Cleared ∧ State.reset.busy = false ∧ State.reset.done = false ∧ State.reset.err = false ∧
    State.reset.errCode = 0#4 ∧ State.reset.seedAddr = 0#64 ∧ State.reset.seedLen = 0#64 ∧
    State.reset.dataAddr = 0#64 ∧ State.reset.dataLen = 0#64 ∧ State.reset.digest = 0#128 ∧
    State.reset.doneOut = false) ∧
  (∀ s : State, ∃ t, hostAct .rst s = .next t ∧
    t.Cleared ∧ t.busy = false ∧ t.done = false ∧ t.err = false ∧ t.errCode = 0#4 ∧
    t.seedAddr = 0#64 ∧ t.seedLen = 0#64 ∧ t.dataAddr = 0#64 ∧ t.dataLen = 0#64 ∧ t.digest = 0#128 ∧
    t.doneOut = false ∧ t.rom = s.rom ∧ ∀ a, t.byteAt a = s.byteAt a)

/-- The platform's stores (R58, U4; log 2, log 8): a store is read back, every other byte stays, and a
change of a byte of an owned page during a run is refused. -/
def Obligations.StoresAreReadBackOrRefused : Prop :=
  ∀ (s : State) (a : Quad) (b : Byte), Memory.wf s.mem = true →
    ((s.busy = true ∧ s.ownsPage (a.toNat / 4096) = true ∧ s.byteAt a ≠ b) →
      hostAct (.store a b) s = .refused (.inputChanged a)) ∧
    (¬(s.busy = true ∧ s.ownsPage (a.toNat / 4096) = true ∧ s.byteAt a ≠ b) →
      ∃ t, hostAct (.store a b) s = .next t ∧ t.byteAt a = b ∧
        (∀ c, c ≠ a → t.byteAt c = s.byteAt c) ∧ { t with mem := s.mem } = s ∧ Memory.wf t.mem = true)

/-! ### Invariants -/

/-- The invariants hold after reset. -/
def Obligations.ResetKeepsTheInvariants : Prop := State.reset.Inv

/-- R23, R35, R41, R222, R251: every step, of the host or of the sequencer, keeps the invariants. -/
def Obligations.EveryStepKeepsTheInvariants : Prop :=
  ∀ s t : State, s.Inv → step s = .next t → t.Inv

/-- R25 to R27, R156, R177: the counters and the pointer agree with the place in the micro-program
after every step of a run, and START puts them there. -/
def Obligations.EveryStepKeepsTheRunOnTrack : Prop :=
  ∀ s t : State, s.Inv → (s.busy = true → s.OnTrack) → step s = .next t → t.busy = true → t.OnTrack

/-- R225, derived there: every step of the sequencer brings the end of the run one step nearer. -/
def Obligations.EveryStepNearsTheEnd : Prop :=
  ∀ s t : State, s.Inv → s.busy = true → s.OnTrack → s.script = [] → step s = .next t →
    (t.busy = true ∧ t.stepsLeft + 1 = s.stepsLeft) ∨ (t.done = true ∧ t.busy = false ∧ s.stepsLeft = 1)

/-! ### The tail -/

/-- R178: the partial read holds every wanted byte, stays in pages that hold an input byte, and does
not wrap. The spec derives it from R170. -/
def Obligations.PartialReadIsPageSafe : Prop :=
  ∀ addr len : Quad, len.toNat % 16 ≠ 0 → addr.toNat + len.toNat ≤ 2 ^ 64 →
    alignOf addr len + len.toNat % 16 ≤ 16 ∧
    (partialAddr addr len).toNat + 15 < 2 ^ 64 ∧
    ∀ i, i < 16 →
      addr.toNat / 4096 ≤ ((partialAddr addr len).toNat + i) / 4096 ∧
      ((partialAddr addr len).toNat + i) / 4096 ≤ (addr.toNat + len.toNat - 1) / 4096

/-- R170, the result, derived there: `IX` holds the last `L mod 16` bytes of the input and zeros, shifted or not. -/
def Obligations.LdpYieldsTheLastBytes : Prop :=
  ∀ s t : State, s.dataAddr.toNat + s.dataLen.toNat ≤ 2 ^ 64 → exec .ldp s = .next t →
    t.iz = 0#128 ∧
    ∀ i, i < 16 → byteOf t.ix i =
      if i < s.dataLen.toNat % 16 then
        s.byteAt (s.dataAddr + BitVec.ofNat 64 (s.dataLen.toNat / 16 * 16 + i)) else 0#8

/-- R176, derived there: after LDP and LDF, `IX` then `IZ` are the last `L mod 32` bytes of the input
and zeros. -/
def Obligations.ResidualIsTheLastBytes : Prop :=
  ∀ s t : State, s.dataAddr.toNat + s.dataLen.toNat ≤ 2 ^ 64 → execAll [.ldp, .ldf] s = .next t →
    ∀ j, j < 16 →
      byteOf t.ix j =
        residual (fun k => s.byteAt (s.dataAddr + BitVec.ofNat 64 k)) s.dataLen.toNat j ∧
      byteOf t.iz j =
        residual (fun k => s.byteAt (s.dataAddr + BitVec.ofNat 64 k)) s.dataLen.toNat (16 + j)

/-! ### The phases and the run -/

/-- R141, derived there: after the eight SEED the lanes hold the seed, and nothing else has happened. -/
def Obligations.SeederLoadsTheSeed : Prop :=
  ∀ s : State, (∀ i, i < 8 → s.windowReadable (s.seedAddr + BitVec.ofNat 64 (16 * i)) = true) →
    ∃ t, execAll [.seed 0, .seed 1, .seed 2, .seed 3, .seed 4, .seed 5, .seed 6, .seed 7] s = .next t ∧
      (∀ (i : LaneNo) (j : Nat), j < 16 →
        byteOf (t.lane i) j = s.byteAt (s.seedAddr + BitVec.ofNat 64 (16 * i.toNat + j))) ∧
      t.reads = s.reads ++ (List.range 8).map (fun i => s.seedAddr + BitVec.ofNat 64 (16 * i)) ∧
      t.pc = s.pc + 8#7 ∧ SameInjection s t ∧ SameCounters s t ∧ InnerStep s t

/-- R155: the loop body mixes one block, chunk `j` with the quintuple `Q[j]`, and advances `PTR` by 256. -/
def Obligations.LoopBodyMixesOneBlock : Prop :=
  ∀ s t : State, execAll ([0, 1, 2, 3, 4, 5, 6, 7].flatMap mixmQ) s = .next t →
    t.lanes = hashChunks (fun k => s.byteAt (s.ptr + BitVec.ofNat 64 k)) 0 0 8 s.lanes ∧
    t.ptr = s.ptr + 256#64 ∧ t.pc = s.pc + 16#7 ∧
    t.blkcnt = s.blkcnt ∧ t.chcnt = s.chcnt ∧
    t.reads = s.reads ++ chunksReads s.ptr 0 8 ∧ InnerStep s t

/-- R175: the seven words of the fixed tail are the residual call and the length call. -/
def Obligations.FixedTailMixesResidualAndLength : Prop :=
  ∀ s t : State, s.dataAddr.toNat + s.dataLen.toNat ≤ 2 ^ 64 →
    execAll ([.ldp, .ldf] ++ mixrQ 0 ++ [.lenv] ++ mixrQ 1) s = .next t →
    t.lanes = hashLength s.dataLen.toNat
      (hashResidual (fun k => s.byteAt (s.dataAddr + BitVec.ofNat 64 k)) s.dataLen.toNat s.lanes) ∧
    SameCounters s t ∧ InnerStep s t

/-- R204, R205: the twelve SHUF and the fold leave the digest in lane 0, in closed form. -/
def Obligations.ReducerFoldsTheLanes : Prop :=
  ∀ s : State,
    (∃ t, execAll ([0, 1, 2, 3, 4, 5, 6, 7, 0, 1, 2, 3].map shufS) s = .next t ∧
      t.lanes = hashShuffles 12 s.lanes ∧ t.reads = s.reads) ∧
    (∃ t, execAll fold s = .next t ∧
      t.lane 0 = add64x2
        (add64x2 (s.lane 0) (s.lane 2) ^^^ add64x2 (s.lane 1) (s.lane 3))
        (add64x2 (s.lane 4) (s.lane 6) ^^^ add64x2 (s.lane 5) (s.lane 7)) ∧
      t.reads = s.reads)

/-- R56, derived there: under the host's precondition no step of a run is a fault or a refusal, and the
precondition still holds after it. -/
def Obligations.OwnedPagesReadableMeansNoFault : Prop :=
  ∀ s : State, s.Inv → s.busy = true → s.OnTrack → s.ownedReadable → s.script = [] →
    ∃ t, step s = .next t ∧ t.ownedReadable

/-- R225, derived there: from an accepted START the block is busy for `STEPS(L)` steps and then done. No
host turn falls between the steps. -/
def Obligations.RunEndsAfterTheStatedSteps : Prop :=
  ∀ (s : State) (v : Quad), s.CallReady → v.getLsbD 0 = true → s.script = [.host (.write .ctrl v)] →
    (∀ k, k < stepsOf s.dataLen.toNat → ∃ u, runFor (k + 1) s = .next u ∧ u.busy = true ∧ u.done = false) ∧
    ∃ t, runFor (stepsOf s.dataLen.toNat + 1) s = .next t ∧ t.busy = false ∧ t.done = true ∧ t.err = false

/-- The digest of a run is `hash(seed, data)` (R223), after the number of steps that R225 derives. No host
turn falls between the steps. -/
def Obligations.RunComputesTheHash : Prop :=
  ∀ (s : State) (v : Quad), s.CallReady → v.getLsbD 0 = true → s.script = [.host (.write .ctrl v)] →
    ∃ t, runFor (stepsOf s.dataLen.toNat + 1) s = .next t ∧ t.done = true ∧
      t.digest = hash (fun k => s.byteAt (s.seedAddr + BitVec.ofNat 64 k))
        (fun k => s.byteAt (s.dataAddr + BitVec.ofNat 64 k)) s.dataLen.toNat

/-- R55, R285, derived there: the reads of a run, in order, and their number. No host turn falls between
the steps. -/
def Obligations.RunReadsTheListedAddresses : Prop :=
  (∀ (s : State) (v : Quad), s.CallReady → v.getLsbD 0 = true → s.script = [.host (.write .ctrl v)] →
    ∃ t, runFor (stepsOf s.dataLen.toNat + 1) s = .next t ∧
      t.reads = s.reads ++ runReads s.seedAddr s.dataAddr s.dataLen) ∧
  (∀ seedAddr dataAddr len : Quad, (runReads seedAddr dataAddr len).length = readsOf len.toNat)

/-- R223, derived there: the digest depends on the 128 seed bytes, on `L` and on the `L` input bytes,
and on nothing else. -/
def Obligations.HashDependsOnlyOnSeedAndInput : Prop :=
  ∀ (seed seed' data data' : Nat → Byte) (len : Nat),
    (∀ k, k < 128 → seed' k = seed k) → (∀ k, k < len → data' k = data k) →
    hash seed' data' len = hash seed data len
end

