-- ==== Sys2Proof/Laws/Datapath.lean ====
section
/-! SUPPORT. The bytes of the datapath functions: `ofBytes` builds the value with the given bytes, and a
value is determined by its sixteen bytes (00_scope.md R9). -/

namespace Sys2Proof.Machine

theorem lowBytes_getLsbD (f : Nat → Byte) (n : Nat) (hn : n ≤ 16) (k : Nat) :
    (lowBytes f n).getLsbD k = (decide (k < 8 * n) && (f (k / 8)).getLsbD (k % 8)) := by
  induction n with
  | zero => simp [lowBytes]
  | succ n ih =>
    rw [lowBytes, BitVec.getLsbD_or, ih (by omega), BitVec.getLsbD_shiftLeft, BitVec.getLsbD_setWidth]
    by_cases hk : k < 8 * n
    · simp [hk, show k < 8 * (n + 1) by omega]
    · by_cases hk' : k < 8 * (n + 1)
      · have hq : k / 8 = n := by omega
        have hr : k - 8 * n = k % 8 := by omega
        simp [hk, hk', hq, hr, show k < 128 by omega, show k % 8 < 128 by omega]
      · simp only [hk, hk', decide_false, Bool.false_and, Bool.false_or, Bool.not_false, Bool.and_true]
        have : ¬ k - 8 * n < 8 := by omega
        rw [BitVec.getLsbD_of_ge (f n) (k - 8 * n) (by omega)]
        simp

/-- Byte `i` of `ofBytes f` is `f i`. -/
theorem byteOf_ofBytes (f : Nat → Byte) {i : Nat} (hi : i < 16) : byteOf (ofBytes f) i = f i := by
  apply BitVec.eq_of_getLsbD_eq
  intro k hk
  have hq : (8 * i + k) / 8 = i := by omega
  have hr : (8 * i + k) % 8 = k := by omega
  rw [byteOf, BitVec.getLsbD_extractLsb', ofBytes, lowBytes_getLsbD f 16 (Nat.le_refl _), hq, hr]
  simp only [hk, show 8 * i + k < 8 * 16 by omega, decide_true, Bool.true_and]

/-- A 128-bit value is determined by its sixteen bytes. -/
theorem byteOf_ext {p q : Lane} (h : ∀ i, i < 16 → byteOf p i = byteOf q i) : p = q := by
  apply BitVec.eq_of_getLsbD_eq
  intro k hk
  have := congrArg (·.getLsbD (k % 8)) (h (k / 8) (by omega))
  have hm : k % 8 < 8 := Nat.mod_lt _ (by omega)
  simpa [byteOf, hm, Nat.div_add_mod] using this

theorem ofBytes_byteOf (v : Lane) : ofBytes (byteOf v) = v :=
  byteOf_ext fun _ hi => byteOf_ofBytes _ hi

theorem ofBytes_congr {f g : Nat → Byte} (h : ∀ i, i < 16 → f i = g i) : ofBytes f = ofBytes g :=
  byteOf_ext fun i hi => by rw [byteOf_ofBytes _ hi, byteOf_ofBytes _ hi, h i hi]

/-- The bytes of a bitwise exclusive or. -/
theorem byteOf_xor (p q : Lane) (i : Nat) : byteOf (p ^^^ q) i = byteOf p i ^^^ byteOf q i := by
  apply BitVec.eq_of_getLsbD_eq
  intro k hk
  simp [byteOf, hk]

/-! ### Quadwords -/

@[simp] theorem quadLo_ofQuads (hi lo : Quad) : quadLo (ofQuads hi lo) = lo := by
  apply BitVec.eq_of_getLsbD_eq
  intro k hk
  rw [quadLo, ofQuads, BitVec.getLsbD_extractLsb', BitVec.getLsbD_append, if_pos (by omega)]
  simp [hk]

@[simp] theorem quadHi_ofQuads (hi lo : Quad) : quadHi (ofQuads hi lo) = hi := by
  apply BitVec.eq_of_getLsbD_eq
  intro k hk
  rw [quadHi, ofQuads, BitVec.getLsbD_extractLsb', BitVec.getLsbD_append, if_neg (by omega)]
  simp [hk]

/-- The quadwords of a sum are the sums of the quadwords (R116). -/
theorem quadLo_add64x2 (p q : Lane) : quadLo (add64x2 p q) = quadLo p + quadLo q := quadLo_ofQuads _ _

theorem quadHi_add64x2 (p q : Lane) : quadHi (add64x2 p q) = quadHi p + quadHi q := quadHi_ofQuads _ _

end Sys2Proof.Machine
end

