-- ==== Sys2Proof/Laws/Memory.lean ====
section
/-! SUPPORT. The platform memory and the page list: read after write, and every operation keeps the
canonical form. -/

namespace Sys2Proof.Machine

/-! ### Memory -/

/-- Read after write, at the address written and at any other. -/
theorem memGet_memSet (m : List Host.Cell) (a b : Nat) (v : Byte) (hm : Memory.wf m = true) :
    memGet (memSet m a v) b = if b = a then v else memGet m b := by
  unfold Memory.wf at hm
  generalize 0 = lo at hm
  have below : ∀ (m : List Host.Cell) (lo b : Nat), memWfFrom lo m = true → b < lo →
      memGet m b = Config.unlistedByte := by
    intro m
    induction m with
    | nil => intros; rfl
    | cons c rest ih =>
      intro lo b h hb
      simp only [memWfFrom, Bool.and_eq_true, decide_eq_true_eq] at h
      rw [memGet, if_neg (by omega)]
      exact ih (c.1 + 1) b h.2 (by omega)
  induction m generalizing lo with
  | nil =>
    by_cases hb : b = a
    · by_cases hv : v = Config.unlistedByte <;> simp [memSet, memGet, hv, hb]
    · by_cases hv : v = Config.unlistedByte <;> simp [memSet, memGet, hv, hb, Ne.symm hb]
  | cons c rest ih =>
    have hw := hm
    simp only [memWfFrom, Bool.and_eq_true, decide_eq_true_eq] at hm
    rw [memSet]
    by_cases h1 : c.1 < a
    · rw [if_pos h1]
      simp only [memGet]
      by_cases hc : c.1 = b
      · rw [if_pos hc, if_neg (by omega), if_pos hc]
      · rw [if_neg hc, if_neg hc]; exact ih (c.1 + 1) hm.2
    · rw [if_neg h1]
      by_cases h2 : c.1 = a
      · rw [if_pos h2]
        by_cases hv : v = Config.unlistedByte
        · rw [if_pos hv]
          by_cases hb : b = a
          · rw [if_pos hb, hv]; exact below rest (c.1 + 1) b hm.2 (by omega)
          · rw [if_neg hb]; simp only [memGet]; rw [if_neg (by omega)]
        · rw [if_neg hv]
          by_cases hb : b = a
          · simp [memGet, hb]
          · simp only [memGet, if_neg hb]; rw [if_neg (by omega), if_neg (by omega)]
      · rw [if_neg h2]
        by_cases hv : v = Config.unlistedByte
        · rw [if_pos hv]
          by_cases hb : b = a
          · rw [if_pos hb, hv]
            simp only [memGet]; rw [if_neg (by omega)]
            exact below rest (c.1 + 1) b hm.2 (by omega)
          · rw [if_neg hb]
        · rw [if_neg hv]
          by_cases hb : b = a
          · simp [memGet, hb]
          · rw [if_neg hb, memGet, if_neg (by omega)]

/-- A write from `lo` on keeps the canonical form from `lo` on. -/
theorem memSet_wfFrom (m : List Host.Cell) (lo a : Nat) (v : Byte) (hm : memWfFrom lo m = true)
    (hlo : lo ≤ a) (ha : a < Config.addressSpace) : memWfFrom lo (memSet m a v) = true := by
  induction m generalizing lo with
  | nil => by_cases hv : v = Config.unlistedByte <;> simp [memSet, memWfFrom, hv, hlo, ha]
  | cons c rest ih =>
    have weaken : ∀ (m : List Host.Cell) (lo lo' : Nat), lo' ≤ lo → memWfFrom lo m = true →
        memWfFrom lo' m = true := by
      intro m lo lo' h hw
      cases m with
      | nil => rfl
      | cons c rest =>
        simp only [memWfFrom, Bool.and_eq_true, decide_eq_true_eq] at hw ⊢
        exact ⟨⟨⟨by omega, hw.1.1.2⟩, hw.1.2⟩, hw.2⟩
    have hw := hm
    simp only [memWfFrom, Bool.and_eq_true, decide_eq_true_eq] at hm
    rw [memSet]
    by_cases h1 : c.1 < a
    · rw [if_pos h1]
      simp only [memWfFrom, Bool.and_eq_true, decide_eq_true_eq]
      exact ⟨hm.1, ih (c.1 + 1) hm.2 (by omega)⟩
    · rw [if_neg h1]
      by_cases h2 : c.1 = a
      · rw [if_pos h2]
        by_cases hv : v = Config.unlistedByte
        · rw [if_pos hv]; exact weaken rest (c.1 + 1) lo (by omega) hm.2
        · rw [if_neg hv]
          simp only [memWfFrom, Bool.and_eq_true, decide_eq_true_eq]
          exact ⟨⟨⟨by omega, ha⟩, hv⟩, h2 ▸ hm.2⟩
      · rw [if_neg h2]
        by_cases hv : v = Config.unlistedByte
        · rw [if_pos hv]; exact hw
        · rw [if_neg hv]
          simp only [memWfFrom, Bool.and_eq_true, decide_eq_true_eq]
          exact ⟨⟨⟨hlo, ha⟩, hv⟩, ⟨⟨⟨by omega, hm.1.1.2⟩, hm.1.2⟩, hm.2⟩⟩

/-- The one memory operation that writes keeps the canonical form. -/
theorem memSet_wf {m : List Host.Cell} (a : Nat) (v : Byte) (hm : Memory.wf m = true)
    (ha : a < Config.addressSpace) : Memory.wf (memSet m a v) = true :=
  memSet_wfFrom m 0 a v hm (Nat.zero_le a) ha

theorem State.setByte_wf {s : State} (a : Quad) (b : Byte) (h : Memory.wf s.mem = true) :
    Memory.wf (s.setByte a b).mem = true :=
  memSet_wf a.toNat b h a.isLt

/-! ### Pages -/

theorem pagesWfFrom_weaken {ps : List Nat} {lo lo' : Nat} (h : lo' ≤ lo) (hw : pagesWfFrom lo ps = true) :
    pagesWfFrom lo' ps = true := by
  cases ps with
  | nil => rfl
  | cons q rest =>
    simp only [pagesWfFrom, Bool.and_eq_true, decide_eq_true_eq] at hw ⊢
    exact ⟨⟨by omega, hw.1.2⟩, hw.2⟩

theorem pageAdd_mem (ps : List Nat) (p q : Nat) : q ∈ pageAdd ps p ↔ q = p ∨ q ∈ ps := by
  induction ps with
  | nil => simp [pageAdd]
  | cons r rest ih =>
    rw [pageAdd]
    split
    · simp only [List.mem_cons, ih]; tauto
    · split
      · next h => subst h; simp
      · simp

theorem pageDrop_mem (ps : List Nat) (p q : Nat) : q ∈ pageDrop ps p ↔ q ≠ p ∧ q ∈ ps := by
  induction ps with
  | nil => simp [pageDrop]
  | cons r rest ih =>
    rw [pageDrop]
    split
    · next h => subst h; simp only [ih, List.mem_cons]; tauto
    · next h => simp only [List.mem_cons, ih]; constructor
                · rintro (rfl | ⟨h1, h2⟩)
                  · exact ⟨h, .inl rfl⟩
                  · exact ⟨h1, .inr h2⟩
                · rintro ⟨h1, rfl | h2⟩
                  · exact .inl rfl
                  · exact .inr ⟨h1, h2⟩

theorem pageAdd_wfFrom (ps : List Nat) (lo p : Nat) (h : pagesWfFrom lo ps = true) (hlo : lo ≤ p)
    (hp : p < Config.addressSpace / Config.pageBytes) : pagesWfFrom lo (pageAdd ps p) = true := by
  induction ps generalizing lo with
  | nil => simp [pageAdd, pagesWfFrom, hlo, hp]
  | cons q rest ih =>
    have hw := h
    simp only [pagesWfFrom, Bool.and_eq_true, decide_eq_true_eq] at h
    rw [pageAdd]
    split
    · simp only [pagesWfFrom, Bool.and_eq_true, decide_eq_true_eq]
      exact ⟨h.1, ih (q + 1) h.2 (by omega)⟩
    · split
      · exact hw
      · simp only [pagesWfFrom, Bool.and_eq_true, decide_eq_true_eq]
        exact ⟨⟨hlo, hp⟩, ⟨⟨by omega, h.1.2⟩, h.2⟩⟩

theorem pageDrop_wfFrom (ps : List Nat) (lo p : Nat) (h : pagesWfFrom lo ps = true) :
    pagesWfFrom lo (pageDrop ps p) = true := by
  induction ps generalizing lo with
  | nil => rfl
  | cons q rest ih =>
    simp only [pagesWfFrom, Bool.and_eq_true, decide_eq_true_eq] at h
    rw [pageDrop]
    split
    · exact pagesWfFrom_weaken (by omega) (ih (q + 1) h.2)
    · simp only [pagesWfFrom, Bool.and_eq_true, decide_eq_true_eq]
      exact ⟨h.1, ih (q + 1) h.2⟩

/-- Making a page unreadable keeps the canonical form of the page list. -/
theorem pageAdd_wf {ps : List Nat} (p : BitVec 52) (h : Pages.wf ps = true) :
    Pages.wf (pageAdd ps p.toNat) = true :=
  pageAdd_wfFrom ps 0 p.toNat h (Nat.zero_le _) (by have := p.isLt; simpa [Config.addressSpace, Config.pageBytes] using this)

/-- Making a page readable keeps the canonical form of the page list. -/
theorem pageDrop_wf {ps : List Nat} (p : BitVec 52) (h : Pages.wf ps = true) :
    Pages.wf (pageDrop ps p.toNat) = true :=
  pageDrop_wfFrom ps 0 p.toNat h

/-- The memory and the page list after reset are canonical. -/
theorem reset_memory_wf : Memory.wf State.reset.mem = true ∧ Pages.wf State.reset.unreadable = true :=
  ⟨rfl, rfl⟩

end Sys2Proof.Machine
end

