-- ==== Sys2Proof/Laws/State.lean ====
section
/-!
SUPPORT. What each named update of the state does to each field, and to the views of the state
(`lane`, `byteAt`, `readable`, `window`, `windowReadable`). All true by unfolding; they keep later proofs from
unfolding a record update.
-/

namespace Sys2Proof.Machine

variable (s : State)

/-! ### `setLane` -/

@[simp] theorem State.setLane_pc (i : LaneNo) (v : Lane) : (s.setLane i v).pc = s.pc := rfl
@[simp] theorem State.setLane_busy (i : LaneNo) (v : Lane) : (s.setLane i v).busy = s.busy := rfl
@[simp] theorem State.setLane_done (i : LaneNo) (v : Lane) : (s.setLane i v).done = s.done := rfl
@[simp] theorem State.setLane_err (i : LaneNo) (v : Lane) : (s.setLane i v).err = s.err := rfl
@[simp] theorem State.setLane_errCode (i : LaneNo) (v : Lane) : (s.setLane i v).errCode = s.errCode := rfl
@[simp] theorem State.setLane_iw (i : LaneNo) (v : Lane) : (s.setLane i v).iw = s.iw := rfl
@[simp] theorem State.setLane_ix (i : LaneNo) (v : Lane) : (s.setLane i v).ix = s.ix := rfl
@[simp] theorem State.setLane_iy (i : LaneNo) (v : Lane) : (s.setLane i v).iy = s.iy := rfl
@[simp] theorem State.setLane_iz (i : LaneNo) (v : Lane) : (s.setLane i v).iz = s.iz := rfl
@[simp] theorem State.setLane_ptr (i : LaneNo) (v : Lane) : (s.setLane i v).ptr = s.ptr := rfl
@[simp] theorem State.setLane_blkcnt (i : LaneNo) (v : Lane) : (s.setLane i v).blkcnt = s.blkcnt := rfl
@[simp] theorem State.setLane_chcnt (i : LaneNo) (v : Lane) : (s.setLane i v).chcnt = s.chcnt := rfl
@[simp] theorem State.setLane_seedAddr (i : LaneNo) (v : Lane) : (s.setLane i v).seedAddr = s.seedAddr := rfl
@[simp] theorem State.setLane_seedLen (i : LaneNo) (v : Lane) : (s.setLane i v).seedLen = s.seedLen := rfl
@[simp] theorem State.setLane_dataAddr (i : LaneNo) (v : Lane) : (s.setLane i v).dataAddr = s.dataAddr := rfl
@[simp] theorem State.setLane_dataLen (i : LaneNo) (v : Lane) : (s.setLane i v).dataLen = s.dataLen := rfl
@[simp] theorem State.setLane_digest (i : LaneNo) (v : Lane) : (s.setLane i v).digest = s.digest := rfl
@[simp] theorem State.setLane_rom (i : LaneNo) (v : Lane) : (s.setLane i v).rom = s.rom := rfl
@[simp] theorem State.setLane_mem (i : LaneNo) (v : Lane) : (s.setLane i v).mem = s.mem := rfl
@[simp] theorem State.setLane_unreadable (i : LaneNo) (v : Lane) : (s.setLane i v).unreadable = s.unreadable := rfl
@[simp] theorem State.setLane_script (i : LaneNo) (v : Lane) : (s.setLane i v).script = s.script := rfl
@[simp] theorem State.setLane_reads (i : LaneNo) (v : Lane) : (s.setLane i v).reads = s.reads := rfl
@[simp] theorem State.setLane_answers (i : LaneNo) (v : Lane) : (s.setLane i v).answers = s.answers := rfl
@[simp] theorem State.setLane_fetch (i : LaneNo) (v : Lane) : (s.setLane i v).fetch = s.fetch := rfl
@[simp] theorem State.setLane_byteAt (i : LaneNo) (v : Lane) (a' : Quad) : (s.setLane i v).byteAt a' = s.byteAt a' := rfl
@[simp] theorem State.setLane_window (i : LaneNo) (v : Lane) (a' : Quad) : (s.setLane i v).window a' = s.window a' := rfl
@[simp] theorem State.setLane_readable (i : LaneNo) (v : Lane) (a' : Quad) : (s.setLane i v).readable a' = s.readable a' := rfl
@[simp] theorem State.setLane_windowReadable (i : LaneNo) (v : Lane) (a' : Quad) : (s.setLane i v).windowReadable a' = s.windowReadable a' := rfl

/-! ### `goto` -/

@[simp] theorem State.goto_lanes (t : UAddr) : (s.goto t).lanes = s.lanes := rfl
@[simp] theorem State.goto_pc (t : UAddr) : (s.goto t).pc = t := rfl
@[simp] theorem State.goto_busy (t : UAddr) : (s.goto t).busy = s.busy := rfl
@[simp] theorem State.goto_done (t : UAddr) : (s.goto t).done = s.done := rfl
@[simp] theorem State.goto_err (t : UAddr) : (s.goto t).err = s.err := rfl
@[simp] theorem State.goto_errCode (t : UAddr) : (s.goto t).errCode = s.errCode := rfl
@[simp] theorem State.goto_iw (t : UAddr) : (s.goto t).iw = s.iw := rfl
@[simp] theorem State.goto_ix (t : UAddr) : (s.goto t).ix = s.ix := rfl
@[simp] theorem State.goto_iy (t : UAddr) : (s.goto t).iy = s.iy := rfl
@[simp] theorem State.goto_iz (t : UAddr) : (s.goto t).iz = s.iz := rfl
@[simp] theorem State.goto_ptr (t : UAddr) : (s.goto t).ptr = s.ptr := rfl
@[simp] theorem State.goto_blkcnt (t : UAddr) : (s.goto t).blkcnt = s.blkcnt := rfl
@[simp] theorem State.goto_chcnt (t : UAddr) : (s.goto t).chcnt = s.chcnt := rfl
@[simp] theorem State.goto_seedAddr (t : UAddr) : (s.goto t).seedAddr = s.seedAddr := rfl
@[simp] theorem State.goto_seedLen (t : UAddr) : (s.goto t).seedLen = s.seedLen := rfl
@[simp] theorem State.goto_dataAddr (t : UAddr) : (s.goto t).dataAddr = s.dataAddr := rfl
@[simp] theorem State.goto_dataLen (t : UAddr) : (s.goto t).dataLen = s.dataLen := rfl
@[simp] theorem State.goto_digest (t : UAddr) : (s.goto t).digest = s.digest := rfl
@[simp] theorem State.goto_rom (t : UAddr) : (s.goto t).rom = s.rom := rfl
@[simp] theorem State.goto_mem (t : UAddr) : (s.goto t).mem = s.mem := rfl
@[simp] theorem State.goto_unreadable (t : UAddr) : (s.goto t).unreadable = s.unreadable := rfl
@[simp] theorem State.goto_script (t : UAddr) : (s.goto t).script = s.script := rfl
@[simp] theorem State.goto_reads (t : UAddr) : (s.goto t).reads = s.reads := rfl
@[simp] theorem State.goto_answers (t : UAddr) : (s.goto t).answers = s.answers := rfl
@[simp] theorem State.goto_lane (t : UAddr) (j : LaneNo) : (s.goto t).lane j = s.lane j := rfl
@[simp] theorem State.goto_byteAt (t : UAddr) (a' : Quad) : (s.goto t).byteAt a' = s.byteAt a' := rfl
@[simp] theorem State.goto_window (t : UAddr) (a' : Quad) : (s.goto t).window a' = s.window a' := rfl
@[simp] theorem State.goto_readable (t : UAddr) (a' : Quad) : (s.goto t).readable a' = s.readable a' := rfl
@[simp] theorem State.goto_windowReadable (t : UAddr) (a' : Quad) : (s.goto t).windowReadable a' = s.windowReadable a' := rfl

/-! ### `advance` -/

@[simp] theorem State.advance_lanes : (s.advance).lanes = s.lanes := rfl
@[simp] theorem State.advance_pc : (s.advance).pc = s.pc + 1#7 := rfl
@[simp] theorem State.advance_busy : (s.advance).busy = s.busy := rfl
@[simp] theorem State.advance_done : (s.advance).done = s.done := rfl
@[simp] theorem State.advance_err : (s.advance).err = s.err := rfl
@[simp] theorem State.advance_errCode : (s.advance).errCode = s.errCode := rfl
@[simp] theorem State.advance_iw : (s.advance).iw = s.iw := rfl
@[simp] theorem State.advance_ix : (s.advance).ix = s.ix := rfl
@[simp] theorem State.advance_iy : (s.advance).iy = s.iy := rfl
@[simp] theorem State.advance_iz : (s.advance).iz = s.iz := rfl
@[simp] theorem State.advance_ptr : (s.advance).ptr = s.ptr := rfl
@[simp] theorem State.advance_blkcnt : (s.advance).blkcnt = s.blkcnt := rfl
@[simp] theorem State.advance_chcnt : (s.advance).chcnt = s.chcnt := rfl
@[simp] theorem State.advance_seedAddr : (s.advance).seedAddr = s.seedAddr := rfl
@[simp] theorem State.advance_seedLen : (s.advance).seedLen = s.seedLen := rfl
@[simp] theorem State.advance_dataAddr : (s.advance).dataAddr = s.dataAddr := rfl
@[simp] theorem State.advance_dataLen : (s.advance).dataLen = s.dataLen := rfl
@[simp] theorem State.advance_digest : (s.advance).digest = s.digest := rfl
@[simp] theorem State.advance_rom : (s.advance).rom = s.rom := rfl
@[simp] theorem State.advance_mem : (s.advance).mem = s.mem := rfl
@[simp] theorem State.advance_unreadable : (s.advance).unreadable = s.unreadable := rfl
@[simp] theorem State.advance_script : (s.advance).script = s.script := rfl
@[simp] theorem State.advance_reads : (s.advance).reads = s.reads := rfl
@[simp] theorem State.advance_answers : (s.advance).answers = s.answers := rfl
@[simp] theorem State.advance_lane (j : LaneNo) : (s.advance).lane j = s.lane j := rfl
@[simp] theorem State.advance_byteAt (a' : Quad) : (s.advance).byteAt a' = s.byteAt a' := rfl
@[simp] theorem State.advance_window (a' : Quad) : (s.advance).window a' = s.window a' := rfl
@[simp] theorem State.advance_readable (a' : Quad) : (s.advance).readable a' = s.readable a' := rfl
@[simp] theorem State.advance_windowReadable (a' : Quad) : (s.advance).windowReadable a' = s.windowReadable a' := rfl

/-! ### `noteRead` -/

@[simp] theorem State.noteRead_lanes (a : Quad) : (s.noteRead a).lanes = s.lanes := rfl
@[simp] theorem State.noteRead_pc (a : Quad) : (s.noteRead a).pc = s.pc := rfl
@[simp] theorem State.noteRead_busy (a : Quad) : (s.noteRead a).busy = s.busy := rfl
@[simp] theorem State.noteRead_done (a : Quad) : (s.noteRead a).done = s.done := rfl
@[simp] theorem State.noteRead_err (a : Quad) : (s.noteRead a).err = s.err := rfl
@[simp] theorem State.noteRead_errCode (a : Quad) : (s.noteRead a).errCode = s.errCode := rfl
@[simp] theorem State.noteRead_iw (a : Quad) : (s.noteRead a).iw = s.iw := rfl
@[simp] theorem State.noteRead_ix (a : Quad) : (s.noteRead a).ix = s.ix := rfl
@[simp] theorem State.noteRead_iy (a : Quad) : (s.noteRead a).iy = s.iy := rfl
@[simp] theorem State.noteRead_iz (a : Quad) : (s.noteRead a).iz = s.iz := rfl
@[simp] theorem State.noteRead_ptr (a : Quad) : (s.noteRead a).ptr = s.ptr := rfl
@[simp] theorem State.noteRead_blkcnt (a : Quad) : (s.noteRead a).blkcnt = s.blkcnt := rfl
@[simp] theorem State.noteRead_chcnt (a : Quad) : (s.noteRead a).chcnt = s.chcnt := rfl
@[simp] theorem State.noteRead_seedAddr (a : Quad) : (s.noteRead a).seedAddr = s.seedAddr := rfl
@[simp] theorem State.noteRead_seedLen (a : Quad) : (s.noteRead a).seedLen = s.seedLen := rfl
@[simp] theorem State.noteRead_dataAddr (a : Quad) : (s.noteRead a).dataAddr = s.dataAddr := rfl
@[simp] theorem State.noteRead_dataLen (a : Quad) : (s.noteRead a).dataLen = s.dataLen := rfl
@[simp] theorem State.noteRead_digest (a : Quad) : (s.noteRead a).digest = s.digest := rfl
@[simp] theorem State.noteRead_rom (a : Quad) : (s.noteRead a).rom = s.rom := rfl
@[simp] theorem State.noteRead_mem (a : Quad) : (s.noteRead a).mem = s.mem := rfl
@[simp] theorem State.noteRead_unreadable (a : Quad) : (s.noteRead a).unreadable = s.unreadable := rfl
@[simp] theorem State.noteRead_script (a : Quad) : (s.noteRead a).script = s.script := rfl
@[simp] theorem State.noteRead_reads (a : Quad) : (s.noteRead a).reads = s.reads ++ [a] := rfl
@[simp] theorem State.noteRead_answers (a : Quad) : (s.noteRead a).answers = s.answers := rfl
@[simp] theorem State.noteRead_lane (a : Quad) (j : LaneNo) : (s.noteRead a).lane j = s.lane j := rfl
@[simp] theorem State.noteRead_fetch (a : Quad) : (s.noteRead a).fetch = s.fetch := rfl
@[simp] theorem State.noteRead_byteAt (a : Quad) (a' : Quad) : (s.noteRead a).byteAt a' = s.byteAt a' := rfl
@[simp] theorem State.noteRead_window (a : Quad) (a' : Quad) : (s.noteRead a).window a' = s.window a' := rfl
@[simp] theorem State.noteRead_readable (a : Quad) (a' : Quad) : (s.noteRead a).readable a' = s.readable a' := rfl
@[simp] theorem State.noteRead_windowReadable (a : Quad) (a' : Quad) : (s.noteRead a).windowReadable a' = s.windowReadable a' := rfl

/-! ### `placeWord` -/

@[simp] theorem State.placeWord_lanes (w : UopWord) : (s.placeWord w).lanes = s.lanes := rfl
@[simp] theorem State.placeWord_pc (w : UopWord) : (s.placeWord w).pc = s.pc := rfl
@[simp] theorem State.placeWord_busy (w : UopWord) : (s.placeWord w).busy = s.busy := rfl
@[simp] theorem State.placeWord_done (w : UopWord) : (s.placeWord w).done = s.done := rfl
@[simp] theorem State.placeWord_err (w : UopWord) : (s.placeWord w).err = s.err := rfl
@[simp] theorem State.placeWord_errCode (w : UopWord) : (s.placeWord w).errCode = s.errCode := rfl
@[simp] theorem State.placeWord_iw (w : UopWord) : (s.placeWord w).iw = s.iw := rfl
@[simp] theorem State.placeWord_ix (w : UopWord) : (s.placeWord w).ix = s.ix := rfl
@[simp] theorem State.placeWord_iy (w : UopWord) : (s.placeWord w).iy = s.iy := rfl
@[simp] theorem State.placeWord_iz (w : UopWord) : (s.placeWord w).iz = s.iz := rfl
@[simp] theorem State.placeWord_ptr (w : UopWord) : (s.placeWord w).ptr = s.ptr := rfl
@[simp] theorem State.placeWord_blkcnt (w : UopWord) : (s.placeWord w).blkcnt = s.blkcnt := rfl
@[simp] theorem State.placeWord_chcnt (w : UopWord) : (s.placeWord w).chcnt = s.chcnt := rfl
@[simp] theorem State.placeWord_seedAddr (w : UopWord) : (s.placeWord w).seedAddr = s.seedAddr := rfl
@[simp] theorem State.placeWord_seedLen (w : UopWord) : (s.placeWord w).seedLen = s.seedLen := rfl
@[simp] theorem State.placeWord_dataAddr (w : UopWord) : (s.placeWord w).dataAddr = s.dataAddr := rfl
@[simp] theorem State.placeWord_dataLen (w : UopWord) : (s.placeWord w).dataLen = s.dataLen := rfl
@[simp] theorem State.placeWord_digest (w : UopWord) : (s.placeWord w).digest = s.digest := rfl
@[simp] theorem State.placeWord_mem (w : UopWord) : (s.placeWord w).mem = s.mem := rfl
@[simp] theorem State.placeWord_unreadable (w : UopWord) : (s.placeWord w).unreadable = s.unreadable := rfl
@[simp] theorem State.placeWord_script (w : UopWord) : (s.placeWord w).script = s.script := rfl
@[simp] theorem State.placeWord_reads (w : UopWord) : (s.placeWord w).reads = s.reads := rfl
@[simp] theorem State.placeWord_answers (w : UopWord) : (s.placeWord w).answers = s.answers := rfl
@[simp] theorem State.placeWord_lane (w : UopWord) (j : LaneNo) : (s.placeWord w).lane j = s.lane j := rfl
@[simp] theorem State.placeWord_byteAt (w : UopWord) (a' : Quad) : (s.placeWord w).byteAt a' = s.byteAt a' := rfl
@[simp] theorem State.placeWord_window (w : UopWord) (a' : Quad) : (s.placeWord w).window a' = s.window a' := rfl
@[simp] theorem State.placeWord_readable (w : UopWord) (a' : Quad) : (s.placeWord w).readable a' = s.readable a' := rfl
@[simp] theorem State.placeWord_windowReadable (w : UopWord) (a' : Quad) : (s.placeWord w).windowReadable a' = s.windowReadable a' := rfl

/-! ### `clearStatus` -/

@[simp] theorem State.clearStatus_lanes : (s.clearStatus).lanes = s.lanes := rfl
@[simp] theorem State.clearStatus_pc : (s.clearStatus).pc = s.pc := rfl
@[simp] theorem State.clearStatus_busy : (s.clearStatus).busy = s.busy := rfl
@[simp] theorem State.clearStatus_done : (s.clearStatus).done = false := rfl
@[simp] theorem State.clearStatus_err : (s.clearStatus).err = false := rfl
@[simp] theorem State.clearStatus_errCode : (s.clearStatus).errCode = 0#4 := rfl
@[simp] theorem State.clearStatus_iw : (s.clearStatus).iw = s.iw := rfl
@[simp] theorem State.clearStatus_ix : (s.clearStatus).ix = s.ix := rfl
@[simp] theorem State.clearStatus_iy : (s.clearStatus).iy = s.iy := rfl
@[simp] theorem State.clearStatus_iz : (s.clearStatus).iz = s.iz := rfl
@[simp] theorem State.clearStatus_ptr : (s.clearStatus).ptr = s.ptr := rfl
@[simp] theorem State.clearStatus_blkcnt : (s.clearStatus).blkcnt = s.blkcnt := rfl
@[simp] theorem State.clearStatus_chcnt : (s.clearStatus).chcnt = s.chcnt := rfl
@[simp] theorem State.clearStatus_seedAddr : (s.clearStatus).seedAddr = s.seedAddr := rfl
@[simp] theorem State.clearStatus_seedLen : (s.clearStatus).seedLen = s.seedLen := rfl
@[simp] theorem State.clearStatus_dataAddr : (s.clearStatus).dataAddr = s.dataAddr := rfl
@[simp] theorem State.clearStatus_dataLen : (s.clearStatus).dataLen = s.dataLen := rfl
@[simp] theorem State.clearStatus_digest : (s.clearStatus).digest = 0#128 := rfl
@[simp] theorem State.clearStatus_rom : (s.clearStatus).rom = s.rom := rfl
@[simp] theorem State.clearStatus_mem : (s.clearStatus).mem = s.mem := rfl
@[simp] theorem State.clearStatus_unreadable : (s.clearStatus).unreadable = s.unreadable := rfl
@[simp] theorem State.clearStatus_script : (s.clearStatus).script = s.script := rfl
@[simp] theorem State.clearStatus_reads : (s.clearStatus).reads = s.reads := rfl
@[simp] theorem State.clearStatus_answers : (s.clearStatus).answers = s.answers := rfl
@[simp] theorem State.clearStatus_lane (j : LaneNo) : (s.clearStatus).lane j = s.lane j := rfl
@[simp] theorem State.clearStatus_fetch : (s.clearStatus).fetch = s.fetch := rfl
@[simp] theorem State.clearStatus_byteAt (a' : Quad) : (s.clearStatus).byteAt a' = s.byteAt a' := rfl
@[simp] theorem State.clearStatus_window (a' : Quad) : (s.clearStatus).window a' = s.window a' := rfl
@[simp] theorem State.clearStatus_readable (a' : Quad) : (s.clearStatus).readable a' = s.readable a' := rfl
@[simp] theorem State.clearStatus_windowReadable (a' : Quad) : (s.clearStatus).windowReadable a' = s.windowReadable a' := rfl

/-! ### `raiseInvalidSeedLength` -/

@[simp] theorem State.raiseInvalidSeedLength_lanes : (s.raiseInvalidSeedLength).lanes = s.lanes := rfl
@[simp] theorem State.raiseInvalidSeedLength_pc : (s.raiseInvalidSeedLength).pc = s.pc := rfl
@[simp] theorem State.raiseInvalidSeedLength_busy : (s.raiseInvalidSeedLength).busy = s.busy := rfl
@[simp] theorem State.raiseInvalidSeedLength_done : (s.raiseInvalidSeedLength).done = s.done := rfl
@[simp] theorem State.raiseInvalidSeedLength_err : (s.raiseInvalidSeedLength).err = true := rfl
@[simp] theorem State.raiseInvalidSeedLength_errCode : (s.raiseInvalidSeedLength).errCode = 1#4 := rfl
@[simp] theorem State.raiseInvalidSeedLength_iw : (s.raiseInvalidSeedLength).iw = s.iw := rfl
@[simp] theorem State.raiseInvalidSeedLength_ix : (s.raiseInvalidSeedLength).ix = s.ix := rfl
@[simp] theorem State.raiseInvalidSeedLength_iy : (s.raiseInvalidSeedLength).iy = s.iy := rfl
@[simp] theorem State.raiseInvalidSeedLength_iz : (s.raiseInvalidSeedLength).iz = s.iz := rfl
@[simp] theorem State.raiseInvalidSeedLength_ptr : (s.raiseInvalidSeedLength).ptr = s.ptr := rfl
@[simp] theorem State.raiseInvalidSeedLength_blkcnt : (s.raiseInvalidSeedLength).blkcnt = s.blkcnt := rfl
@[simp] theorem State.raiseInvalidSeedLength_chcnt : (s.raiseInvalidSeedLength).chcnt = s.chcnt := rfl
@[simp] theorem State.raiseInvalidSeedLength_seedAddr : (s.raiseInvalidSeedLength).seedAddr = s.seedAddr := rfl
@[simp] theorem State.raiseInvalidSeedLength_seedLen : (s.raiseInvalidSeedLength).seedLen = s.seedLen := rfl
@[simp] theorem State.raiseInvalidSeedLength_dataAddr : (s.raiseInvalidSeedLength).dataAddr = s.dataAddr := rfl
@[simp] theorem State.raiseInvalidSeedLength_dataLen : (s.raiseInvalidSeedLength).dataLen = s.dataLen := rfl
@[simp] theorem State.raiseInvalidSeedLength_digest : (s.raiseInvalidSeedLength).digest = s.digest := rfl
@[simp] theorem State.raiseInvalidSeedLength_rom : (s.raiseInvalidSeedLength).rom = s.rom := rfl
@[simp] theorem State.raiseInvalidSeedLength_mem : (s.raiseInvalidSeedLength).mem = s.mem := rfl
@[simp] theorem State.raiseInvalidSeedLength_unreadable : (s.raiseInvalidSeedLength).unreadable = s.unreadable := rfl
@[simp] theorem State.raiseInvalidSeedLength_script : (s.raiseInvalidSeedLength).script = s.script := rfl
@[simp] theorem State.raiseInvalidSeedLength_reads : (s.raiseInvalidSeedLength).reads = s.reads := rfl
@[simp] theorem State.raiseInvalidSeedLength_answers : (s.raiseInvalidSeedLength).answers = s.answers := rfl
@[simp] theorem State.raiseInvalidSeedLength_lane (j : LaneNo) : (s.raiseInvalidSeedLength).lane j = s.lane j := rfl
@[simp] theorem State.raiseInvalidSeedLength_fetch : (s.raiseInvalidSeedLength).fetch = s.fetch := rfl
@[simp] theorem State.raiseInvalidSeedLength_byteAt (a' : Quad) : (s.raiseInvalidSeedLength).byteAt a' = s.byteAt a' := rfl
@[simp] theorem State.raiseInvalidSeedLength_window (a' : Quad) : (s.raiseInvalidSeedLength).window a' = s.window a' := rfl
@[simp] theorem State.raiseInvalidSeedLength_readable (a' : Quad) : (s.raiseInvalidSeedLength).readable a' = s.readable a' := rfl
@[simp] theorem State.raiseInvalidSeedLength_windowReadable (a' : Quad) : (s.raiseInvalidSeedLength).windowReadable a' = s.windowReadable a' := rfl

/-! ### `launch` -/

@[simp] theorem State.launch_lanes : (s.launch).lanes = s.lanes := rfl
@[simp] theorem State.launch_pc : (s.launch).pc = 0#7 := rfl
@[simp] theorem State.launch_busy : (s.launch).busy = true := rfl
@[simp] theorem State.launch_done : (s.launch).done = s.done := rfl
@[simp] theorem State.launch_err : (s.launch).err = s.err := rfl
@[simp] theorem State.launch_errCode : (s.launch).errCode = s.errCode := rfl
@[simp] theorem State.launch_iw : (s.launch).iw = s.iw := rfl
@[simp] theorem State.launch_ix : (s.launch).ix = s.ix := rfl
@[simp] theorem State.launch_iy : (s.launch).iy = s.iy := rfl
@[simp] theorem State.launch_iz : (s.launch).iz = s.iz := rfl
@[simp] theorem State.launch_ptr : (s.launch).ptr = s.dataAddr := rfl
@[simp] theorem State.launch_blkcnt : (s.launch).blkcnt = blocksOf s.dataLen := rfl
@[simp] theorem State.launch_chcnt : (s.launch).chcnt = chunksOf s.dataLen := rfl
@[simp] theorem State.launch_seedAddr : (s.launch).seedAddr = s.seedAddr := rfl
@[simp] theorem State.launch_seedLen : (s.launch).seedLen = s.seedLen := rfl
@[simp] theorem State.launch_dataAddr : (s.launch).dataAddr = s.dataAddr := rfl
@[simp] theorem State.launch_dataLen : (s.launch).dataLen = s.dataLen := rfl
@[simp] theorem State.launch_digest : (s.launch).digest = s.digest := rfl
@[simp] theorem State.launch_rom : (s.launch).rom = s.rom := rfl
@[simp] theorem State.launch_mem : (s.launch).mem = s.mem := rfl
@[simp] theorem State.launch_unreadable : (s.launch).unreadable = s.unreadable := rfl
@[simp] theorem State.launch_script : (s.launch).script = s.script := rfl
@[simp] theorem State.launch_reads : (s.launch).reads = s.reads := rfl
@[simp] theorem State.launch_answers : (s.launch).answers = s.answers := rfl
@[simp] theorem State.launch_lane (j : LaneNo) : (s.launch).lane j = s.lane j := rfl
@[simp] theorem State.launch_byteAt (a' : Quad) : (s.launch).byteAt a' = s.byteAt a' := rfl
@[simp] theorem State.launch_window (a' : Quad) : (s.launch).window a' = s.window a' := rfl
@[simp] theorem State.launch_readable (a' : Quad) : (s.launch).readable a' = s.readable a' := rfl
@[simp] theorem State.launch_windowReadable (a' : Quad) : (s.launch).windowReadable a' = s.windowReadable a' := rfl

/-! ### `discardWork` -/

@[simp] theorem State.discardWork_pc : (s.discardWork).pc = 0#7 := rfl
@[simp] theorem State.discardWork_busy : (s.discardWork).busy = s.busy := rfl
@[simp] theorem State.discardWork_done : (s.discardWork).done = s.done := rfl
@[simp] theorem State.discardWork_err : (s.discardWork).err = s.err := rfl
@[simp] theorem State.discardWork_errCode : (s.discardWork).errCode = s.errCode := rfl
@[simp] theorem State.discardWork_iw : (s.discardWork).iw = 0#128 := rfl
@[simp] theorem State.discardWork_ix : (s.discardWork).ix = 0#128 := rfl
@[simp] theorem State.discardWork_iy : (s.discardWork).iy = 0#128 := rfl
@[simp] theorem State.discardWork_iz : (s.discardWork).iz = 0#128 := rfl
@[simp] theorem State.discardWork_ptr : (s.discardWork).ptr = 0#64 := rfl
@[simp] theorem State.discardWork_blkcnt : (s.discardWork).blkcnt = 0#56 := rfl
@[simp] theorem State.discardWork_chcnt : (s.discardWork).chcnt = 0#3 := rfl
@[simp] theorem State.discardWork_seedAddr : (s.discardWork).seedAddr = s.seedAddr := rfl
@[simp] theorem State.discardWork_seedLen : (s.discardWork).seedLen = s.seedLen := rfl
@[simp] theorem State.discardWork_dataAddr : (s.discardWork).dataAddr = s.dataAddr := rfl
@[simp] theorem State.discardWork_dataLen : (s.discardWork).dataLen = s.dataLen := rfl
@[simp] theorem State.discardWork_digest : (s.discardWork).digest = s.digest := rfl
@[simp] theorem State.discardWork_rom : (s.discardWork).rom = s.rom := rfl
@[simp] theorem State.discardWork_mem : (s.discardWork).mem = s.mem := rfl
@[simp] theorem State.discardWork_unreadable : (s.discardWork).unreadable = s.unreadable := rfl
@[simp] theorem State.discardWork_script : (s.discardWork).script = s.script := rfl
@[simp] theorem State.discardWork_reads : (s.discardWork).reads = s.reads := rfl
@[simp] theorem State.discardWork_answers : (s.discardWork).answers = s.answers := rfl
@[simp] theorem State.discardWork_byteAt (a' : Quad) : (s.discardWork).byteAt a' = s.byteAt a' := rfl
@[simp] theorem State.discardWork_window (a' : Quad) : (s.discardWork).window a' = s.window a' := rfl
@[simp] theorem State.discardWork_readable (a' : Quad) : (s.discardWork).readable a' = s.readable a' := rfl
@[simp] theorem State.discardWork_windowReadable (a' : Quad) : (s.discardWork).windowReadable a' = s.windowReadable a' := rfl

/-! ### `finishFlags` -/

@[simp] theorem State.finishFlags_lanes : (s.finishFlags).lanes = s.lanes := rfl
@[simp] theorem State.finishFlags_pc : (s.finishFlags).pc = s.pc := rfl
@[simp] theorem State.finishFlags_busy : (s.finishFlags).busy = false := rfl
@[simp] theorem State.finishFlags_done : (s.finishFlags).done = true := rfl
@[simp] theorem State.finishFlags_err : (s.finishFlags).err = s.err := rfl
@[simp] theorem State.finishFlags_errCode : (s.finishFlags).errCode = s.errCode := rfl
@[simp] theorem State.finishFlags_iw : (s.finishFlags).iw = s.iw := rfl
@[simp] theorem State.finishFlags_ix : (s.finishFlags).ix = s.ix := rfl
@[simp] theorem State.finishFlags_iy : (s.finishFlags).iy = s.iy := rfl
@[simp] theorem State.finishFlags_iz : (s.finishFlags).iz = s.iz := rfl
@[simp] theorem State.finishFlags_ptr : (s.finishFlags).ptr = s.ptr := rfl
@[simp] theorem State.finishFlags_blkcnt : (s.finishFlags).blkcnt = s.blkcnt := rfl
@[simp] theorem State.finishFlags_chcnt : (s.finishFlags).chcnt = s.chcnt := rfl
@[simp] theorem State.finishFlags_seedAddr : (s.finishFlags).seedAddr = s.seedAddr := rfl
@[simp] theorem State.finishFlags_seedLen : (s.finishFlags).seedLen = s.seedLen := rfl
@[simp] theorem State.finishFlags_dataAddr : (s.finishFlags).dataAddr = s.dataAddr := rfl
@[simp] theorem State.finishFlags_dataLen : (s.finishFlags).dataLen = s.dataLen := rfl
@[simp] theorem State.finishFlags_digest : (s.finishFlags).digest = s.digest := rfl
@[simp] theorem State.finishFlags_rom : (s.finishFlags).rom = s.rom := rfl
@[simp] theorem State.finishFlags_mem : (s.finishFlags).mem = s.mem := rfl
@[simp] theorem State.finishFlags_unreadable : (s.finishFlags).unreadable = s.unreadable := rfl
@[simp] theorem State.finishFlags_script : (s.finishFlags).script = s.script := rfl
@[simp] theorem State.finishFlags_reads : (s.finishFlags).reads = s.reads := rfl
@[simp] theorem State.finishFlags_answers : (s.finishFlags).answers = s.answers := rfl
@[simp] theorem State.finishFlags_lane (j : LaneNo) : (s.finishFlags).lane j = s.lane j := rfl
@[simp] theorem State.finishFlags_fetch : (s.finishFlags).fetch = s.fetch := rfl
@[simp] theorem State.finishFlags_byteAt (a' : Quad) : (s.finishFlags).byteAt a' = s.byteAt a' := rfl
@[simp] theorem State.finishFlags_window (a' : Quad) : (s.finishFlags).window a' = s.window a' := rfl
@[simp] theorem State.finishFlags_readable (a' : Quad) : (s.finishFlags).readable a' = s.readable a' := rfl
@[simp] theorem State.finishFlags_windowReadable (a' : Quad) : (s.finishFlags).windowReadable a' = s.windowReadable a' := rfl

/-! ### `setByte` -/

@[simp] theorem State.setByte_lanes (a : Quad) (b : Byte) : (s.setByte a b).lanes = s.lanes := rfl
@[simp] theorem State.setByte_pc (a : Quad) (b : Byte) : (s.setByte a b).pc = s.pc := rfl
@[simp] theorem State.setByte_busy (a : Quad) (b : Byte) : (s.setByte a b).busy = s.busy := rfl
@[simp] theorem State.setByte_done (a : Quad) (b : Byte) : (s.setByte a b).done = s.done := rfl
@[simp] theorem State.setByte_err (a : Quad) (b : Byte) : (s.setByte a b).err = s.err := rfl
@[simp] theorem State.setByte_errCode (a : Quad) (b : Byte) : (s.setByte a b).errCode = s.errCode := rfl
@[simp] theorem State.setByte_iw (a : Quad) (b : Byte) : (s.setByte a b).iw = s.iw := rfl
@[simp] theorem State.setByte_ix (a : Quad) (b : Byte) : (s.setByte a b).ix = s.ix := rfl
@[simp] theorem State.setByte_iy (a : Quad) (b : Byte) : (s.setByte a b).iy = s.iy := rfl
@[simp] theorem State.setByte_iz (a : Quad) (b : Byte) : (s.setByte a b).iz = s.iz := rfl
@[simp] theorem State.setByte_ptr (a : Quad) (b : Byte) : (s.setByte a b).ptr = s.ptr := rfl
@[simp] theorem State.setByte_blkcnt (a : Quad) (b : Byte) : (s.setByte a b).blkcnt = s.blkcnt := rfl
@[simp] theorem State.setByte_chcnt (a : Quad) (b : Byte) : (s.setByte a b).chcnt = s.chcnt := rfl
@[simp] theorem State.setByte_seedAddr (a : Quad) (b : Byte) : (s.setByte a b).seedAddr = s.seedAddr := rfl
@[simp] theorem State.setByte_seedLen (a : Quad) (b : Byte) : (s.setByte a b).seedLen = s.seedLen := rfl
@[simp] theorem State.setByte_dataAddr (a : Quad) (b : Byte) : (s.setByte a b).dataAddr = s.dataAddr := rfl
@[simp] theorem State.setByte_dataLen (a : Quad) (b : Byte) : (s.setByte a b).dataLen = s.dataLen := rfl
@[simp] theorem State.setByte_digest (a : Quad) (b : Byte) : (s.setByte a b).digest = s.digest := rfl
@[simp] theorem State.setByte_rom (a : Quad) (b : Byte) : (s.setByte a b).rom = s.rom := rfl
@[simp] theorem State.setByte_mem (a : Quad) (b : Byte) : (s.setByte a b).mem = memSet s.mem a.toNat b := rfl
@[simp] theorem State.setByte_unreadable (a : Quad) (b : Byte) : (s.setByte a b).unreadable = s.unreadable := rfl
@[simp] theorem State.setByte_script (a : Quad) (b : Byte) : (s.setByte a b).script = s.script := rfl
@[simp] theorem State.setByte_reads (a : Quad) (b : Byte) : (s.setByte a b).reads = s.reads := rfl
@[simp] theorem State.setByte_answers (a : Quad) (b : Byte) : (s.setByte a b).answers = s.answers := rfl
@[simp] theorem State.setByte_lane (a : Quad) (b : Byte) (j : LaneNo) : (s.setByte a b).lane j = s.lane j := rfl
@[simp] theorem State.setByte_fetch (a : Quad) (b : Byte) : (s.setByte a b).fetch = s.fetch := rfl
@[simp] theorem State.setByte_readable (a : Quad) (b : Byte) (a' : Quad) : (s.setByte a b).readable a' = s.readable a' := rfl
@[simp] theorem State.setByte_windowReadable (a : Quad) (b : Byte) (a' : Quad) : (s.setByte a b).windowReadable a' = s.windowReadable a' := rfl

/-! ### `setIw` -/

@[simp] theorem State.setIw_lanes (v : Lane) : (s.setIw v).lanes = s.lanes := rfl
@[simp] theorem State.setIw_pc (v : Lane) : (s.setIw v).pc = s.pc := rfl
@[simp] theorem State.setIw_busy (v : Lane) : (s.setIw v).busy = s.busy := rfl
@[simp] theorem State.setIw_done (v : Lane) : (s.setIw v).done = s.done := rfl
@[simp] theorem State.setIw_err (v : Lane) : (s.setIw v).err = s.err := rfl
@[simp] theorem State.setIw_errCode (v : Lane) : (s.setIw v).errCode = s.errCode := rfl
@[simp] theorem State.setIw_iw (v : Lane) : (s.setIw v).iw = v := rfl
@[simp] theorem State.setIw_ix (v : Lane) : (s.setIw v).ix = s.ix := rfl
@[simp] theorem State.setIw_iy (v : Lane) : (s.setIw v).iy = s.iy := rfl
@[simp] theorem State.setIw_iz (v : Lane) : (s.setIw v).iz = s.iz := rfl
@[simp] theorem State.setIw_ptr (v : Lane) : (s.setIw v).ptr = s.ptr := rfl
@[simp] theorem State.setIw_blkcnt (v : Lane) : (s.setIw v).blkcnt = s.blkcnt := rfl
@[simp] theorem State.setIw_chcnt (v : Lane) : (s.setIw v).chcnt = s.chcnt := rfl
@[simp] theorem State.setIw_seedAddr (v : Lane) : (s.setIw v).seedAddr = s.seedAddr := rfl
@[simp] theorem State.setIw_seedLen (v : Lane) : (s.setIw v).seedLen = s.seedLen := rfl
@[simp] theorem State.setIw_dataAddr (v : Lane) : (s.setIw v).dataAddr = s.dataAddr := rfl
@[simp] theorem State.setIw_dataLen (v : Lane) : (s.setIw v).dataLen = s.dataLen := rfl
@[simp] theorem State.setIw_digest (v : Lane) : (s.setIw v).digest = s.digest := rfl
@[simp] theorem State.setIw_rom (v : Lane) : (s.setIw v).rom = s.rom := rfl
@[simp] theorem State.setIw_mem (v : Lane) : (s.setIw v).mem = s.mem := rfl
@[simp] theorem State.setIw_unreadable (v : Lane) : (s.setIw v).unreadable = s.unreadable := rfl
@[simp] theorem State.setIw_script (v : Lane) : (s.setIw v).script = s.script := rfl
@[simp] theorem State.setIw_reads (v : Lane) : (s.setIw v).reads = s.reads := rfl
@[simp] theorem State.setIw_answers (v : Lane) : (s.setIw v).answers = s.answers := rfl
@[simp] theorem State.setIw_lane (v : Lane) (j : LaneNo) : (s.setIw v).lane j = s.lane j := rfl
@[simp] theorem State.setIw_fetch (v : Lane) : (s.setIw v).fetch = s.fetch := rfl
@[simp] theorem State.setIw_byteAt (v : Lane) (a' : Quad) : (s.setIw v).byteAt a' = s.byteAt a' := rfl
@[simp] theorem State.setIw_window (v : Lane) (a' : Quad) : (s.setIw v).window a' = s.window a' := rfl
@[simp] theorem State.setIw_readable (v : Lane) (a' : Quad) : (s.setIw v).readable a' = s.readable a' := rfl
@[simp] theorem State.setIw_windowReadable (v : Lane) (a' : Quad) : (s.setIw v).windowReadable a' = s.windowReadable a' := rfl

/-! ### `setIx` -/

@[simp] theorem State.setIx_lanes (v : Lane) : (s.setIx v).lanes = s.lanes := rfl
@[simp] theorem State.setIx_pc (v : Lane) : (s.setIx v).pc = s.pc := rfl
@[simp] theorem State.setIx_busy (v : Lane) : (s.setIx v).busy = s.busy := rfl
@[simp] theorem State.setIx_done (v : Lane) : (s.setIx v).done = s.done := rfl
@[simp] theorem State.setIx_err (v : Lane) : (s.setIx v).err = s.err := rfl
@[simp] theorem State.setIx_errCode (v : Lane) : (s.setIx v).errCode = s.errCode := rfl
@[simp] theorem State.setIx_iw (v : Lane) : (s.setIx v).iw = s.iw := rfl
@[simp] theorem State.setIx_ix (v : Lane) : (s.setIx v).ix = v := rfl
@[simp] theorem State.setIx_iy (v : Lane) : (s.setIx v).iy = s.iy := rfl
@[simp] theorem State.setIx_iz (v : Lane) : (s.setIx v).iz = s.iz := rfl
@[simp] theorem State.setIx_ptr (v : Lane) : (s.setIx v).ptr = s.ptr := rfl
@[simp] theorem State.setIx_blkcnt (v : Lane) : (s.setIx v).blkcnt = s.blkcnt := rfl
@[simp] theorem State.setIx_chcnt (v : Lane) : (s.setIx v).chcnt = s.chcnt := rfl
@[simp] theorem State.setIx_seedAddr (v : Lane) : (s.setIx v).seedAddr = s.seedAddr := rfl
@[simp] theorem State.setIx_seedLen (v : Lane) : (s.setIx v).seedLen = s.seedLen := rfl
@[simp] theorem State.setIx_dataAddr (v : Lane) : (s.setIx v).dataAddr = s.dataAddr := rfl
@[simp] theorem State.setIx_dataLen (v : Lane) : (s.setIx v).dataLen = s.dataLen := rfl
@[simp] theorem State.setIx_digest (v : Lane) : (s.setIx v).digest = s.digest := rfl
@[simp] theorem State.setIx_rom (v : Lane) : (s.setIx v).rom = s.rom := rfl
@[simp] theorem State.setIx_mem (v : Lane) : (s.setIx v).mem = s.mem := rfl
@[simp] theorem State.setIx_unreadable (v : Lane) : (s.setIx v).unreadable = s.unreadable := rfl
@[simp] theorem State.setIx_script (v : Lane) : (s.setIx v).script = s.script := rfl
@[simp] theorem State.setIx_reads (v : Lane) : (s.setIx v).reads = s.reads := rfl
@[simp] theorem State.setIx_answers (v : Lane) : (s.setIx v).answers = s.answers := rfl
@[simp] theorem State.setIx_lane (v : Lane) (j : LaneNo) : (s.setIx v).lane j = s.lane j := rfl
@[simp] theorem State.setIx_fetch (v : Lane) : (s.setIx v).fetch = s.fetch := rfl
@[simp] theorem State.setIx_byteAt (v : Lane) (a' : Quad) : (s.setIx v).byteAt a' = s.byteAt a' := rfl
@[simp] theorem State.setIx_window (v : Lane) (a' : Quad) : (s.setIx v).window a' = s.window a' := rfl
@[simp] theorem State.setIx_readable (v : Lane) (a' : Quad) : (s.setIx v).readable a' = s.readable a' := rfl
@[simp] theorem State.setIx_windowReadable (v : Lane) (a' : Quad) : (s.setIx v).windowReadable a' = s.windowReadable a' := rfl

/-! ### `setIy` -/

@[simp] theorem State.setIy_lanes (v : Lane) : (s.setIy v).lanes = s.lanes := rfl
@[simp] theorem State.setIy_pc (v : Lane) : (s.setIy v).pc = s.pc := rfl
@[simp] theorem State.setIy_busy (v : Lane) : (s.setIy v).busy = s.busy := rfl
@[simp] theorem State.setIy_done (v : Lane) : (s.setIy v).done = s.done := rfl
@[simp] theorem State.setIy_err (v : Lane) : (s.setIy v).err = s.err := rfl
@[simp] theorem State.setIy_errCode (v : Lane) : (s.setIy v).errCode = s.errCode := rfl
@[simp] theorem State.setIy_iw (v : Lane) : (s.setIy v).iw = s.iw := rfl
@[simp] theorem State.setIy_ix (v : Lane) : (s.setIy v).ix = s.ix := rfl
@[simp] theorem State.setIy_iy (v : Lane) : (s.setIy v).iy = v := rfl
@[simp] theorem State.setIy_iz (v : Lane) : (s.setIy v).iz = s.iz := rfl
@[simp] theorem State.setIy_ptr (v : Lane) : (s.setIy v).ptr = s.ptr := rfl
@[simp] theorem State.setIy_blkcnt (v : Lane) : (s.setIy v).blkcnt = s.blkcnt := rfl
@[simp] theorem State.setIy_chcnt (v : Lane) : (s.setIy v).chcnt = s.chcnt := rfl
@[simp] theorem State.setIy_seedAddr (v : Lane) : (s.setIy v).seedAddr = s.seedAddr := rfl
@[simp] theorem State.setIy_seedLen (v : Lane) : (s.setIy v).seedLen = s.seedLen := rfl
@[simp] theorem State.setIy_dataAddr (v : Lane) : (s.setIy v).dataAddr = s.dataAddr := rfl
@[simp] theorem State.setIy_dataLen (v : Lane) : (s.setIy v).dataLen = s.dataLen := rfl
@[simp] theorem State.setIy_digest (v : Lane) : (s.setIy v).digest = s.digest := rfl
@[simp] theorem State.setIy_rom (v : Lane) : (s.setIy v).rom = s.rom := rfl
@[simp] theorem State.setIy_mem (v : Lane) : (s.setIy v).mem = s.mem := rfl
@[simp] theorem State.setIy_unreadable (v : Lane) : (s.setIy v).unreadable = s.unreadable := rfl
@[simp] theorem State.setIy_script (v : Lane) : (s.setIy v).script = s.script := rfl
@[simp] theorem State.setIy_reads (v : Lane) : (s.setIy v).reads = s.reads := rfl
@[simp] theorem State.setIy_answers (v : Lane) : (s.setIy v).answers = s.answers := rfl
@[simp] theorem State.setIy_lane (v : Lane) (j : LaneNo) : (s.setIy v).lane j = s.lane j := rfl
@[simp] theorem State.setIy_fetch (v : Lane) : (s.setIy v).fetch = s.fetch := rfl
@[simp] theorem State.setIy_byteAt (v : Lane) (a' : Quad) : (s.setIy v).byteAt a' = s.byteAt a' := rfl
@[simp] theorem State.setIy_window (v : Lane) (a' : Quad) : (s.setIy v).window a' = s.window a' := rfl
@[simp] theorem State.setIy_readable (v : Lane) (a' : Quad) : (s.setIy v).readable a' = s.readable a' := rfl
@[simp] theorem State.setIy_windowReadable (v : Lane) (a' : Quad) : (s.setIy v).windowReadable a' = s.windowReadable a' := rfl

/-! ### `setIz` -/

@[simp] theorem State.setIz_lanes (v : Lane) : (s.setIz v).lanes = s.lanes := rfl
@[simp] theorem State.setIz_pc (v : Lane) : (s.setIz v).pc = s.pc := rfl
@[simp] theorem State.setIz_busy (v : Lane) : (s.setIz v).busy = s.busy := rfl
@[simp] theorem State.setIz_done (v : Lane) : (s.setIz v).done = s.done := rfl
@[simp] theorem State.setIz_err (v : Lane) : (s.setIz v).err = s.err := rfl
@[simp] theorem State.setIz_errCode (v : Lane) : (s.setIz v).errCode = s.errCode := rfl
@[simp] theorem State.setIz_iw (v : Lane) : (s.setIz v).iw = s.iw := rfl
@[simp] theorem State.setIz_ix (v : Lane) : (s.setIz v).ix = s.ix := rfl
@[simp] theorem State.setIz_iy (v : Lane) : (s.setIz v).iy = s.iy := rfl
@[simp] theorem State.setIz_iz (v : Lane) : (s.setIz v).iz = v := rfl
@[simp] theorem State.setIz_ptr (v : Lane) : (s.setIz v).ptr = s.ptr := rfl
@[simp] theorem State.setIz_blkcnt (v : Lane) : (s.setIz v).blkcnt = s.blkcnt := rfl
@[simp] theorem State.setIz_chcnt (v : Lane) : (s.setIz v).chcnt = s.chcnt := rfl
@[simp] theorem State.setIz_seedAddr (v : Lane) : (s.setIz v).seedAddr = s.seedAddr := rfl
@[simp] theorem State.setIz_seedLen (v : Lane) : (s.setIz v).seedLen = s.seedLen := rfl
@[simp] theorem State.setIz_dataAddr (v : Lane) : (s.setIz v).dataAddr = s.dataAddr := rfl
@[simp] theorem State.setIz_dataLen (v : Lane) : (s.setIz v).dataLen = s.dataLen := rfl
@[simp] theorem State.setIz_digest (v : Lane) : (s.setIz v).digest = s.digest := rfl
@[simp] theorem State.setIz_rom (v : Lane) : (s.setIz v).rom = s.rom := rfl
@[simp] theorem State.setIz_mem (v : Lane) : (s.setIz v).mem = s.mem := rfl
@[simp] theorem State.setIz_unreadable (v : Lane) : (s.setIz v).unreadable = s.unreadable := rfl
@[simp] theorem State.setIz_script (v : Lane) : (s.setIz v).script = s.script := rfl
@[simp] theorem State.setIz_reads (v : Lane) : (s.setIz v).reads = s.reads := rfl
@[simp] theorem State.setIz_answers (v : Lane) : (s.setIz v).answers = s.answers := rfl
@[simp] theorem State.setIz_lane (v : Lane) (j : LaneNo) : (s.setIz v).lane j = s.lane j := rfl
@[simp] theorem State.setIz_fetch (v : Lane) : (s.setIz v).fetch = s.fetch := rfl
@[simp] theorem State.setIz_byteAt (v : Lane) (a' : Quad) : (s.setIz v).byteAt a' = s.byteAt a' := rfl
@[simp] theorem State.setIz_window (v : Lane) (a' : Quad) : (s.setIz v).window a' = s.window a' := rfl
@[simp] theorem State.setIz_readable (v : Lane) (a' : Quad) : (s.setIz v).readable a' = s.readable a' := rfl
@[simp] theorem State.setIz_windowReadable (v : Lane) (a' : Quad) : (s.setIz v).windowReadable a' = s.windowReadable a' := rfl

/-! ### `setPtr` -/

@[simp] theorem State.setPtr_lanes (v : Quad) : (s.setPtr v).lanes = s.lanes := rfl
@[simp] theorem State.setPtr_pc (v : Quad) : (s.setPtr v).pc = s.pc := rfl
@[simp] theorem State.setPtr_busy (v : Quad) : (s.setPtr v).busy = s.busy := rfl
@[simp] theorem State.setPtr_done (v : Quad) : (s.setPtr v).done = s.done := rfl
@[simp] theorem State.setPtr_err (v : Quad) : (s.setPtr v).err = s.err := rfl
@[simp] theorem State.setPtr_errCode (v : Quad) : (s.setPtr v).errCode = s.errCode := rfl
@[simp] theorem State.setPtr_iw (v : Quad) : (s.setPtr v).iw = s.iw := rfl
@[simp] theorem State.setPtr_ix (v : Quad) : (s.setPtr v).ix = s.ix := rfl
@[simp] theorem State.setPtr_iy (v : Quad) : (s.setPtr v).iy = s.iy := rfl
@[simp] theorem State.setPtr_iz (v : Quad) : (s.setPtr v).iz = s.iz := rfl
@[simp] theorem State.setPtr_ptr (v : Quad) : (s.setPtr v).ptr = v := rfl
@[simp] theorem State.setPtr_blkcnt (v : Quad) : (s.setPtr v).blkcnt = s.blkcnt := rfl
@[simp] theorem State.setPtr_chcnt (v : Quad) : (s.setPtr v).chcnt = s.chcnt := rfl
@[simp] theorem State.setPtr_seedAddr (v : Quad) : (s.setPtr v).seedAddr = s.seedAddr := rfl
@[simp] theorem State.setPtr_seedLen (v : Quad) : (s.setPtr v).seedLen = s.seedLen := rfl
@[simp] theorem State.setPtr_dataAddr (v : Quad) : (s.setPtr v).dataAddr = s.dataAddr := rfl
@[simp] theorem State.setPtr_dataLen (v : Quad) : (s.setPtr v).dataLen = s.dataLen := rfl
@[simp] theorem State.setPtr_digest (v : Quad) : (s.setPtr v).digest = s.digest := rfl
@[simp] theorem State.setPtr_rom (v : Quad) : (s.setPtr v).rom = s.rom := rfl
@[simp] theorem State.setPtr_mem (v : Quad) : (s.setPtr v).mem = s.mem := rfl
@[simp] theorem State.setPtr_unreadable (v : Quad) : (s.setPtr v).unreadable = s.unreadable := rfl
@[simp] theorem State.setPtr_script (v : Quad) : (s.setPtr v).script = s.script := rfl
@[simp] theorem State.setPtr_reads (v : Quad) : (s.setPtr v).reads = s.reads := rfl
@[simp] theorem State.setPtr_answers (v : Quad) : (s.setPtr v).answers = s.answers := rfl
@[simp] theorem State.setPtr_lane (v : Quad) (j : LaneNo) : (s.setPtr v).lane j = s.lane j := rfl
@[simp] theorem State.setPtr_fetch (v : Quad) : (s.setPtr v).fetch = s.fetch := rfl
@[simp] theorem State.setPtr_byteAt (v : Quad) (a' : Quad) : (s.setPtr v).byteAt a' = s.byteAt a' := rfl
@[simp] theorem State.setPtr_window (v : Quad) (a' : Quad) : (s.setPtr v).window a' = s.window a' := rfl
@[simp] theorem State.setPtr_readable (v : Quad) (a' : Quad) : (s.setPtr v).readable a' = s.readable a' := rfl
@[simp] theorem State.setPtr_windowReadable (v : Quad) (a' : Quad) : (s.setPtr v).windowReadable a' = s.windowReadable a' := rfl

/-! ### `setBlkcnt` -/

@[simp] theorem State.setBlkcnt_lanes (v : BitVec 56) : (s.setBlkcnt v).lanes = s.lanes := rfl
@[simp] theorem State.setBlkcnt_pc (v : BitVec 56) : (s.setBlkcnt v).pc = s.pc := rfl
@[simp] theorem State.setBlkcnt_busy (v : BitVec 56) : (s.setBlkcnt v).busy = s.busy := rfl
@[simp] theorem State.setBlkcnt_done (v : BitVec 56) : (s.setBlkcnt v).done = s.done := rfl
@[simp] theorem State.setBlkcnt_err (v : BitVec 56) : (s.setBlkcnt v).err = s.err := rfl
@[simp] theorem State.setBlkcnt_errCode (v : BitVec 56) : (s.setBlkcnt v).errCode = s.errCode := rfl
@[simp] theorem State.setBlkcnt_iw (v : BitVec 56) : (s.setBlkcnt v).iw = s.iw := rfl
@[simp] theorem State.setBlkcnt_ix (v : BitVec 56) : (s.setBlkcnt v).ix = s.ix := rfl
@[simp] theorem State.setBlkcnt_iy (v : BitVec 56) : (s.setBlkcnt v).iy = s.iy := rfl
@[simp] theorem State.setBlkcnt_iz (v : BitVec 56) : (s.setBlkcnt v).iz = s.iz := rfl
@[simp] theorem State.setBlkcnt_ptr (v : BitVec 56) : (s.setBlkcnt v).ptr = s.ptr := rfl
@[simp] theorem State.setBlkcnt_blkcnt (v : BitVec 56) : (s.setBlkcnt v).blkcnt = v := rfl
@[simp] theorem State.setBlkcnt_chcnt (v : BitVec 56) : (s.setBlkcnt v).chcnt = s.chcnt := rfl
@[simp] theorem State.setBlkcnt_seedAddr (v : BitVec 56) : (s.setBlkcnt v).seedAddr = s.seedAddr := rfl
@[simp] theorem State.setBlkcnt_seedLen (v : BitVec 56) : (s.setBlkcnt v).seedLen = s.seedLen := rfl
@[simp] theorem State.setBlkcnt_dataAddr (v : BitVec 56) : (s.setBlkcnt v).dataAddr = s.dataAddr := rfl
@[simp] theorem State.setBlkcnt_dataLen (v : BitVec 56) : (s.setBlkcnt v).dataLen = s.dataLen := rfl
@[simp] theorem State.setBlkcnt_digest (v : BitVec 56) : (s.setBlkcnt v).digest = s.digest := rfl
@[simp] theorem State.setBlkcnt_rom (v : BitVec 56) : (s.setBlkcnt v).rom = s.rom := rfl
@[simp] theorem State.setBlkcnt_mem (v : BitVec 56) : (s.setBlkcnt v).mem = s.mem := rfl
@[simp] theorem State.setBlkcnt_unreadable (v : BitVec 56) : (s.setBlkcnt v).unreadable = s.unreadable := rfl
@[simp] theorem State.setBlkcnt_script (v : BitVec 56) : (s.setBlkcnt v).script = s.script := rfl
@[simp] theorem State.setBlkcnt_reads (v : BitVec 56) : (s.setBlkcnt v).reads = s.reads := rfl
@[simp] theorem State.setBlkcnt_answers (v : BitVec 56) : (s.setBlkcnt v).answers = s.answers := rfl
@[simp] theorem State.setBlkcnt_lane (v : BitVec 56) (j : LaneNo) : (s.setBlkcnt v).lane j = s.lane j := rfl
@[simp] theorem State.setBlkcnt_fetch (v : BitVec 56) : (s.setBlkcnt v).fetch = s.fetch := rfl
@[simp] theorem State.setBlkcnt_byteAt (v : BitVec 56) (a' : Quad) : (s.setBlkcnt v).byteAt a' = s.byteAt a' := rfl
@[simp] theorem State.setBlkcnt_window (v : BitVec 56) (a' : Quad) : (s.setBlkcnt v).window a' = s.window a' := rfl
@[simp] theorem State.setBlkcnt_readable (v : BitVec 56) (a' : Quad) : (s.setBlkcnt v).readable a' = s.readable a' := rfl
@[simp] theorem State.setBlkcnt_windowReadable (v : BitVec 56) (a' : Quad) : (s.setBlkcnt v).windowReadable a' = s.windowReadable a' := rfl

/-! ### `setChcnt` -/

@[simp] theorem State.setChcnt_lanes (v : BitVec 3) : (s.setChcnt v).lanes = s.lanes := rfl
@[simp] theorem State.setChcnt_pc (v : BitVec 3) : (s.setChcnt v).pc = s.pc := rfl
@[simp] theorem State.setChcnt_busy (v : BitVec 3) : (s.setChcnt v).busy = s.busy := rfl
@[simp] theorem State.setChcnt_done (v : BitVec 3) : (s.setChcnt v).done = s.done := rfl
@[simp] theorem State.setChcnt_err (v : BitVec 3) : (s.setChcnt v).err = s.err := rfl
@[simp] theorem State.setChcnt_errCode (v : BitVec 3) : (s.setChcnt v).errCode = s.errCode := rfl
@[simp] theorem State.setChcnt_iw (v : BitVec 3) : (s.setChcnt v).iw = s.iw := rfl
@[simp] theorem State.setChcnt_ix (v : BitVec 3) : (s.setChcnt v).ix = s.ix := rfl
@[simp] theorem State.setChcnt_iy (v : BitVec 3) : (s.setChcnt v).iy = s.iy := rfl
@[simp] theorem State.setChcnt_iz (v : BitVec 3) : (s.setChcnt v).iz = s.iz := rfl
@[simp] theorem State.setChcnt_ptr (v : BitVec 3) : (s.setChcnt v).ptr = s.ptr := rfl
@[simp] theorem State.setChcnt_blkcnt (v : BitVec 3) : (s.setChcnt v).blkcnt = s.blkcnt := rfl
@[simp] theorem State.setChcnt_chcnt (v : BitVec 3) : (s.setChcnt v).chcnt = v := rfl
@[simp] theorem State.setChcnt_seedAddr (v : BitVec 3) : (s.setChcnt v).seedAddr = s.seedAddr := rfl
@[simp] theorem State.setChcnt_seedLen (v : BitVec 3) : (s.setChcnt v).seedLen = s.seedLen := rfl
@[simp] theorem State.setChcnt_dataAddr (v : BitVec 3) : (s.setChcnt v).dataAddr = s.dataAddr := rfl
@[simp] theorem State.setChcnt_dataLen (v : BitVec 3) : (s.setChcnt v).dataLen = s.dataLen := rfl
@[simp] theorem State.setChcnt_digest (v : BitVec 3) : (s.setChcnt v).digest = s.digest := rfl
@[simp] theorem State.setChcnt_rom (v : BitVec 3) : (s.setChcnt v).rom = s.rom := rfl
@[simp] theorem State.setChcnt_mem (v : BitVec 3) : (s.setChcnt v).mem = s.mem := rfl
@[simp] theorem State.setChcnt_unreadable (v : BitVec 3) : (s.setChcnt v).unreadable = s.unreadable := rfl
@[simp] theorem State.setChcnt_script (v : BitVec 3) : (s.setChcnt v).script = s.script := rfl
@[simp] theorem State.setChcnt_reads (v : BitVec 3) : (s.setChcnt v).reads = s.reads := rfl
@[simp] theorem State.setChcnt_answers (v : BitVec 3) : (s.setChcnt v).answers = s.answers := rfl
@[simp] theorem State.setChcnt_lane (v : BitVec 3) (j : LaneNo) : (s.setChcnt v).lane j = s.lane j := rfl
@[simp] theorem State.setChcnt_fetch (v : BitVec 3) : (s.setChcnt v).fetch = s.fetch := rfl
@[simp] theorem State.setChcnt_byteAt (v : BitVec 3) (a' : Quad) : (s.setChcnt v).byteAt a' = s.byteAt a' := rfl
@[simp] theorem State.setChcnt_window (v : BitVec 3) (a' : Quad) : (s.setChcnt v).window a' = s.window a' := rfl
@[simp] theorem State.setChcnt_readable (v : BitVec 3) (a' : Quad) : (s.setChcnt v).readable a' = s.readable a' := rfl
@[simp] theorem State.setChcnt_windowReadable (v : BitVec 3) (a' : Quad) : (s.setChcnt v).windowReadable a' = s.windowReadable a' := rfl

/-! ### `setDigest` -/

@[simp] theorem State.setDigest_lanes (v : Lane) : (s.setDigest v).lanes = s.lanes := rfl
@[simp] theorem State.setDigest_pc (v : Lane) : (s.setDigest v).pc = s.pc := rfl
@[simp] theorem State.setDigest_busy (v : Lane) : (s.setDigest v).busy = s.busy := rfl
@[simp] theorem State.setDigest_done (v : Lane) : (s.setDigest v).done = s.done := rfl
@[simp] theorem State.setDigest_err (v : Lane) : (s.setDigest v).err = s.err := rfl
@[simp] theorem State.setDigest_errCode (v : Lane) : (s.setDigest v).errCode = s.errCode := rfl
@[simp] theorem State.setDigest_iw (v : Lane) : (s.setDigest v).iw = s.iw := rfl
@[simp] theorem State.setDigest_ix (v : Lane) : (s.setDigest v).ix = s.ix := rfl
@[simp] theorem State.setDigest_iy (v : Lane) : (s.setDigest v).iy = s.iy := rfl
@[simp] theorem State.setDigest_iz (v : Lane) : (s.setDigest v).iz = s.iz := rfl
@[simp] theorem State.setDigest_ptr (v : Lane) : (s.setDigest v).ptr = s.ptr := rfl
@[simp] theorem State.setDigest_blkcnt (v : Lane) : (s.setDigest v).blkcnt = s.blkcnt := rfl
@[simp] theorem State.setDigest_chcnt (v : Lane) : (s.setDigest v).chcnt = s.chcnt := rfl
@[simp] theorem State.setDigest_seedAddr (v : Lane) : (s.setDigest v).seedAddr = s.seedAddr := rfl
@[simp] theorem State.setDigest_seedLen (v : Lane) : (s.setDigest v).seedLen = s.seedLen := rfl
@[simp] theorem State.setDigest_dataAddr (v : Lane) : (s.setDigest v).dataAddr = s.dataAddr := rfl
@[simp] theorem State.setDigest_dataLen (v : Lane) : (s.setDigest v).dataLen = s.dataLen := rfl
@[simp] theorem State.setDigest_digest (v : Lane) : (s.setDigest v).digest = v := rfl
@[simp] theorem State.setDigest_rom (v : Lane) : (s.setDigest v).rom = s.rom := rfl
@[simp] theorem State.setDigest_mem (v : Lane) : (s.setDigest v).mem = s.mem := rfl
@[simp] theorem State.setDigest_unreadable (v : Lane) : (s.setDigest v).unreadable = s.unreadable := rfl
@[simp] theorem State.setDigest_script (v : Lane) : (s.setDigest v).script = s.script := rfl
@[simp] theorem State.setDigest_reads (v : Lane) : (s.setDigest v).reads = s.reads := rfl
@[simp] theorem State.setDigest_answers (v : Lane) : (s.setDigest v).answers = s.answers := rfl
@[simp] theorem State.setDigest_lane (v : Lane) (j : LaneNo) : (s.setDigest v).lane j = s.lane j := rfl
@[simp] theorem State.setDigest_fetch (v : Lane) : (s.setDigest v).fetch = s.fetch := rfl
@[simp] theorem State.setDigest_byteAt (v : Lane) (a' : Quad) : (s.setDigest v).byteAt a' = s.byteAt a' := rfl
@[simp] theorem State.setDigest_window (v : Lane) (a' : Quad) : (s.setDigest v).window a' = s.window a' := rfl
@[simp] theorem State.setDigest_readable (v : Lane) (a' : Quad) : (s.setDigest v).readable a' = s.readable a' := rfl
@[simp] theorem State.setDigest_windowReadable (v : Lane) (a' : Quad) : (s.setDigest v).windowReadable a' = s.windowReadable a' := rfl

/-! ### `setSeedAddr` -/

@[simp] theorem State.setSeedAddr_lanes (v : Quad) : (s.setSeedAddr v).lanes = s.lanes := rfl
@[simp] theorem State.setSeedAddr_pc (v : Quad) : (s.setSeedAddr v).pc = s.pc := rfl
@[simp] theorem State.setSeedAddr_busy (v : Quad) : (s.setSeedAddr v).busy = s.busy := rfl
@[simp] theorem State.setSeedAddr_done (v : Quad) : (s.setSeedAddr v).done = s.done := rfl
@[simp] theorem State.setSeedAddr_err (v : Quad) : (s.setSeedAddr v).err = s.err := rfl
@[simp] theorem State.setSeedAddr_errCode (v : Quad) : (s.setSeedAddr v).errCode = s.errCode := rfl
@[simp] theorem State.setSeedAddr_iw (v : Quad) : (s.setSeedAddr v).iw = s.iw := rfl
@[simp] theorem State.setSeedAddr_ix (v : Quad) : (s.setSeedAddr v).ix = s.ix := rfl
@[simp] theorem State.setSeedAddr_iy (v : Quad) : (s.setSeedAddr v).iy = s.iy := rfl
@[simp] theorem State.setSeedAddr_iz (v : Quad) : (s.setSeedAddr v).iz = s.iz := rfl
@[simp] theorem State.setSeedAddr_ptr (v : Quad) : (s.setSeedAddr v).ptr = s.ptr := rfl
@[simp] theorem State.setSeedAddr_blkcnt (v : Quad) : (s.setSeedAddr v).blkcnt = s.blkcnt := rfl
@[simp] theorem State.setSeedAddr_chcnt (v : Quad) : (s.setSeedAddr v).chcnt = s.chcnt := rfl
@[simp] theorem State.setSeedAddr_seedAddr (v : Quad) : (s.setSeedAddr v).seedAddr = v := rfl
@[simp] theorem State.setSeedAddr_seedLen (v : Quad) : (s.setSeedAddr v).seedLen = s.seedLen := rfl
@[simp] theorem State.setSeedAddr_dataAddr (v : Quad) : (s.setSeedAddr v).dataAddr = s.dataAddr := rfl
@[simp] theorem State.setSeedAddr_dataLen (v : Quad) : (s.setSeedAddr v).dataLen = s.dataLen := rfl
@[simp] theorem State.setSeedAddr_digest (v : Quad) : (s.setSeedAddr v).digest = s.digest := rfl
@[simp] theorem State.setSeedAddr_rom (v : Quad) : (s.setSeedAddr v).rom = s.rom := rfl
@[simp] theorem State.setSeedAddr_mem (v : Quad) : (s.setSeedAddr v).mem = s.mem := rfl
@[simp] theorem State.setSeedAddr_unreadable (v : Quad) : (s.setSeedAddr v).unreadable = s.unreadable := rfl
@[simp] theorem State.setSeedAddr_script (v : Quad) : (s.setSeedAddr v).script = s.script := rfl
@[simp] theorem State.setSeedAddr_reads (v : Quad) : (s.setSeedAddr v).reads = s.reads := rfl
@[simp] theorem State.setSeedAddr_answers (v : Quad) : (s.setSeedAddr v).answers = s.answers := rfl
@[simp] theorem State.setSeedAddr_lane (v : Quad) (j : LaneNo) : (s.setSeedAddr v).lane j = s.lane j := rfl
@[simp] theorem State.setSeedAddr_fetch (v : Quad) : (s.setSeedAddr v).fetch = s.fetch := rfl
@[simp] theorem State.setSeedAddr_byteAt (v : Quad) (a' : Quad) : (s.setSeedAddr v).byteAt a' = s.byteAt a' := rfl
@[simp] theorem State.setSeedAddr_window (v : Quad) (a' : Quad) : (s.setSeedAddr v).window a' = s.window a' := rfl
@[simp] theorem State.setSeedAddr_readable (v : Quad) (a' : Quad) : (s.setSeedAddr v).readable a' = s.readable a' := rfl
@[simp] theorem State.setSeedAddr_windowReadable (v : Quad) (a' : Quad) : (s.setSeedAddr v).windowReadable a' = s.windowReadable a' := rfl

/-! ### `setSeedLen` -/

@[simp] theorem State.setSeedLen_lanes (v : Quad) : (s.setSeedLen v).lanes = s.lanes := rfl
@[simp] theorem State.setSeedLen_pc (v : Quad) : (s.setSeedLen v).pc = s.pc := rfl
@[simp] theorem State.setSeedLen_busy (v : Quad) : (s.setSeedLen v).busy = s.busy := rfl
@[simp] theorem State.setSeedLen_done (v : Quad) : (s.setSeedLen v).done = s.done := rfl
@[simp] theorem State.setSeedLen_err (v : Quad) : (s.setSeedLen v).err = s.err := rfl
@[simp] theorem State.setSeedLen_errCode (v : Quad) : (s.setSeedLen v).errCode = s.errCode := rfl
@[simp] theorem State.setSeedLen_iw (v : Quad) : (s.setSeedLen v).iw = s.iw := rfl
@[simp] theorem State.setSeedLen_ix (v : Quad) : (s.setSeedLen v).ix = s.ix := rfl
@[simp] theorem State.setSeedLen_iy (v : Quad) : (s.setSeedLen v).iy = s.iy := rfl
@[simp] theorem State.setSeedLen_iz (v : Quad) : (s.setSeedLen v).iz = s.iz := rfl
@[simp] theorem State.setSeedLen_ptr (v : Quad) : (s.setSeedLen v).ptr = s.ptr := rfl
@[simp] theorem State.setSeedLen_blkcnt (v : Quad) : (s.setSeedLen v).blkcnt = s.blkcnt := rfl
@[simp] theorem State.setSeedLen_chcnt (v : Quad) : (s.setSeedLen v).chcnt = s.chcnt := rfl
@[simp] theorem State.setSeedLen_seedAddr (v : Quad) : (s.setSeedLen v).seedAddr = s.seedAddr := rfl
@[simp] theorem State.setSeedLen_seedLen (v : Quad) : (s.setSeedLen v).seedLen = v := rfl
@[simp] theorem State.setSeedLen_dataAddr (v : Quad) : (s.setSeedLen v).dataAddr = s.dataAddr := rfl
@[simp] theorem State.setSeedLen_dataLen (v : Quad) : (s.setSeedLen v).dataLen = s.dataLen := rfl
@[simp] theorem State.setSeedLen_digest (v : Quad) : (s.setSeedLen v).digest = s.digest := rfl
@[simp] theorem State.setSeedLen_rom (v : Quad) : (s.setSeedLen v).rom = s.rom := rfl
@[simp] theorem State.setSeedLen_mem (v : Quad) : (s.setSeedLen v).mem = s.mem := rfl
@[simp] theorem State.setSeedLen_unreadable (v : Quad) : (s.setSeedLen v).unreadable = s.unreadable := rfl
@[simp] theorem State.setSeedLen_script (v : Quad) : (s.setSeedLen v).script = s.script := rfl
@[simp] theorem State.setSeedLen_reads (v : Quad) : (s.setSeedLen v).reads = s.reads := rfl
@[simp] theorem State.setSeedLen_answers (v : Quad) : (s.setSeedLen v).answers = s.answers := rfl
@[simp] theorem State.setSeedLen_lane (v : Quad) (j : LaneNo) : (s.setSeedLen v).lane j = s.lane j := rfl
@[simp] theorem State.setSeedLen_fetch (v : Quad) : (s.setSeedLen v).fetch = s.fetch := rfl
@[simp] theorem State.setSeedLen_byteAt (v : Quad) (a' : Quad) : (s.setSeedLen v).byteAt a' = s.byteAt a' := rfl
@[simp] theorem State.setSeedLen_window (v : Quad) (a' : Quad) : (s.setSeedLen v).window a' = s.window a' := rfl
@[simp] theorem State.setSeedLen_readable (v : Quad) (a' : Quad) : (s.setSeedLen v).readable a' = s.readable a' := rfl
@[simp] theorem State.setSeedLen_windowReadable (v : Quad) (a' : Quad) : (s.setSeedLen v).windowReadable a' = s.windowReadable a' := rfl

/-! ### `setDataAddr` -/

@[simp] theorem State.setDataAddr_lanes (v : Quad) : (s.setDataAddr v).lanes = s.lanes := rfl
@[simp] theorem State.setDataAddr_pc (v : Quad) : (s.setDataAddr v).pc = s.pc := rfl
@[simp] theorem State.setDataAddr_busy (v : Quad) : (s.setDataAddr v).busy = s.busy := rfl
@[simp] theorem State.setDataAddr_done (v : Quad) : (s.setDataAddr v).done = s.done := rfl
@[simp] theorem State.setDataAddr_err (v : Quad) : (s.setDataAddr v).err = s.err := rfl
@[simp] theorem State.setDataAddr_errCode (v : Quad) : (s.setDataAddr v).errCode = s.errCode := rfl
@[simp] theorem State.setDataAddr_iw (v : Quad) : (s.setDataAddr v).iw = s.iw := rfl
@[simp] theorem State.setDataAddr_ix (v : Quad) : (s.setDataAddr v).ix = s.ix := rfl
@[simp] theorem State.setDataAddr_iy (v : Quad) : (s.setDataAddr v).iy = s.iy := rfl
@[simp] theorem State.setDataAddr_iz (v : Quad) : (s.setDataAddr v).iz = s.iz := rfl
@[simp] theorem State.setDataAddr_ptr (v : Quad) : (s.setDataAddr v).ptr = s.ptr := rfl
@[simp] theorem State.setDataAddr_blkcnt (v : Quad) : (s.setDataAddr v).blkcnt = s.blkcnt := rfl
@[simp] theorem State.setDataAddr_chcnt (v : Quad) : (s.setDataAddr v).chcnt = s.chcnt := rfl
@[simp] theorem State.setDataAddr_seedAddr (v : Quad) : (s.setDataAddr v).seedAddr = s.seedAddr := rfl
@[simp] theorem State.setDataAddr_seedLen (v : Quad) : (s.setDataAddr v).seedLen = s.seedLen := rfl
@[simp] theorem State.setDataAddr_dataAddr (v : Quad) : (s.setDataAddr v).dataAddr = v := rfl
@[simp] theorem State.setDataAddr_dataLen (v : Quad) : (s.setDataAddr v).dataLen = s.dataLen := rfl
@[simp] theorem State.setDataAddr_digest (v : Quad) : (s.setDataAddr v).digest = s.digest := rfl
@[simp] theorem State.setDataAddr_rom (v : Quad) : (s.setDataAddr v).rom = s.rom := rfl
@[simp] theorem State.setDataAddr_mem (v : Quad) : (s.setDataAddr v).mem = s.mem := rfl
@[simp] theorem State.setDataAddr_unreadable (v : Quad) : (s.setDataAddr v).unreadable = s.unreadable := rfl
@[simp] theorem State.setDataAddr_script (v : Quad) : (s.setDataAddr v).script = s.script := rfl
@[simp] theorem State.setDataAddr_reads (v : Quad) : (s.setDataAddr v).reads = s.reads := rfl
@[simp] theorem State.setDataAddr_answers (v : Quad) : (s.setDataAddr v).answers = s.answers := rfl
@[simp] theorem State.setDataAddr_lane (v : Quad) (j : LaneNo) : (s.setDataAddr v).lane j = s.lane j := rfl
@[simp] theorem State.setDataAddr_fetch (v : Quad) : (s.setDataAddr v).fetch = s.fetch := rfl
@[simp] theorem State.setDataAddr_byteAt (v : Quad) (a' : Quad) : (s.setDataAddr v).byteAt a' = s.byteAt a' := rfl
@[simp] theorem State.setDataAddr_window (v : Quad) (a' : Quad) : (s.setDataAddr v).window a' = s.window a' := rfl
@[simp] theorem State.setDataAddr_readable (v : Quad) (a' : Quad) : (s.setDataAddr v).readable a' = s.readable a' := rfl
@[simp] theorem State.setDataAddr_windowReadable (v : Quad) (a' : Quad) : (s.setDataAddr v).windowReadable a' = s.windowReadable a' := rfl

/-! ### `setDataLen` -/

@[simp] theorem State.setDataLen_lanes (v : Quad) : (s.setDataLen v).lanes = s.lanes := rfl
@[simp] theorem State.setDataLen_pc (v : Quad) : (s.setDataLen v).pc = s.pc := rfl
@[simp] theorem State.setDataLen_busy (v : Quad) : (s.setDataLen v).busy = s.busy := rfl
@[simp] theorem State.setDataLen_done (v : Quad) : (s.setDataLen v).done = s.done := rfl
@[simp] theorem State.setDataLen_err (v : Quad) : (s.setDataLen v).err = s.err := rfl
@[simp] theorem State.setDataLen_errCode (v : Quad) : (s.setDataLen v).errCode = s.errCode := rfl
@[simp] theorem State.setDataLen_iw (v : Quad) : (s.setDataLen v).iw = s.iw := rfl
@[simp] theorem State.setDataLen_ix (v : Quad) : (s.setDataLen v).ix = s.ix := rfl
@[simp] theorem State.setDataLen_iy (v : Quad) : (s.setDataLen v).iy = s.iy := rfl
@[simp] theorem State.setDataLen_iz (v : Quad) : (s.setDataLen v).iz = s.iz := rfl
@[simp] theorem State.setDataLen_ptr (v : Quad) : (s.setDataLen v).ptr = s.ptr := rfl
@[simp] theorem State.setDataLen_blkcnt (v : Quad) : (s.setDataLen v).blkcnt = s.blkcnt := rfl
@[simp] theorem State.setDataLen_chcnt (v : Quad) : (s.setDataLen v).chcnt = s.chcnt := rfl
@[simp] theorem State.setDataLen_seedAddr (v : Quad) : (s.setDataLen v).seedAddr = s.seedAddr := rfl
@[simp] theorem State.setDataLen_seedLen (v : Quad) : (s.setDataLen v).seedLen = s.seedLen := rfl
@[simp] theorem State.setDataLen_dataAddr (v : Quad) : (s.setDataLen v).dataAddr = s.dataAddr := rfl
@[simp] theorem State.setDataLen_dataLen (v : Quad) : (s.setDataLen v).dataLen = v := rfl
@[simp] theorem State.setDataLen_digest (v : Quad) : (s.setDataLen v).digest = s.digest := rfl
@[simp] theorem State.setDataLen_rom (v : Quad) : (s.setDataLen v).rom = s.rom := rfl
@[simp] theorem State.setDataLen_mem (v : Quad) : (s.setDataLen v).mem = s.mem := rfl
@[simp] theorem State.setDataLen_unreadable (v : Quad) : (s.setDataLen v).unreadable = s.unreadable := rfl
@[simp] theorem State.setDataLen_script (v : Quad) : (s.setDataLen v).script = s.script := rfl
@[simp] theorem State.setDataLen_reads (v : Quad) : (s.setDataLen v).reads = s.reads := rfl
@[simp] theorem State.setDataLen_answers (v : Quad) : (s.setDataLen v).answers = s.answers := rfl
@[simp] theorem State.setDataLen_lane (v : Quad) (j : LaneNo) : (s.setDataLen v).lane j = s.lane j := rfl
@[simp] theorem State.setDataLen_fetch (v : Quad) : (s.setDataLen v).fetch = s.fetch := rfl
@[simp] theorem State.setDataLen_byteAt (v : Quad) (a' : Quad) : (s.setDataLen v).byteAt a' = s.byteAt a' := rfl
@[simp] theorem State.setDataLen_window (v : Quad) (a' : Quad) : (s.setDataLen v).window a' = s.window a' := rfl
@[simp] theorem State.setDataLen_readable (v : Quad) (a' : Quad) : (s.setDataLen v).readable a' = s.readable a' := rfl
@[simp] theorem State.setDataLen_windowReadable (v : Quad) (a' : Quad) : (s.setDataLen v).windowReadable a' = s.windowReadable a' := rfl

/-! ### `setScript` -/

@[simp] theorem State.setScript_lanes (v : List Turn) : (s.setScript v).lanes = s.lanes := rfl
@[simp] theorem State.setScript_pc (v : List Turn) : (s.setScript v).pc = s.pc := rfl
@[simp] theorem State.setScript_busy (v : List Turn) : (s.setScript v).busy = s.busy := rfl
@[simp] theorem State.setScript_done (v : List Turn) : (s.setScript v).done = s.done := rfl
@[simp] theorem State.setScript_err (v : List Turn) : (s.setScript v).err = s.err := rfl
@[simp] theorem State.setScript_errCode (v : List Turn) : (s.setScript v).errCode = s.errCode := rfl
@[simp] theorem State.setScript_iw (v : List Turn) : (s.setScript v).iw = s.iw := rfl
@[simp] theorem State.setScript_ix (v : List Turn) : (s.setScript v).ix = s.ix := rfl
@[simp] theorem State.setScript_iy (v : List Turn) : (s.setScript v).iy = s.iy := rfl
@[simp] theorem State.setScript_iz (v : List Turn) : (s.setScript v).iz = s.iz := rfl
@[simp] theorem State.setScript_ptr (v : List Turn) : (s.setScript v).ptr = s.ptr := rfl
@[simp] theorem State.setScript_blkcnt (v : List Turn) : (s.setScript v).blkcnt = s.blkcnt := rfl
@[simp] theorem State.setScript_chcnt (v : List Turn) : (s.setScript v).chcnt = s.chcnt := rfl
@[simp] theorem State.setScript_seedAddr (v : List Turn) : (s.setScript v).seedAddr = s.seedAddr := rfl
@[simp] theorem State.setScript_seedLen (v : List Turn) : (s.setScript v).seedLen = s.seedLen := rfl
@[simp] theorem State.setScript_dataAddr (v : List Turn) : (s.setScript v).dataAddr = s.dataAddr := rfl
@[simp] theorem State.setScript_dataLen (v : List Turn) : (s.setScript v).dataLen = s.dataLen := rfl
@[simp] theorem State.setScript_digest (v : List Turn) : (s.setScript v).digest = s.digest := rfl
@[simp] theorem State.setScript_rom (v : List Turn) : (s.setScript v).rom = s.rom := rfl
@[simp] theorem State.setScript_mem (v : List Turn) : (s.setScript v).mem = s.mem := rfl
@[simp] theorem State.setScript_unreadable (v : List Turn) : (s.setScript v).unreadable = s.unreadable := rfl
@[simp] theorem State.setScript_script (v : List Turn) : (s.setScript v).script = v := rfl
@[simp] theorem State.setScript_reads (v : List Turn) : (s.setScript v).reads = s.reads := rfl
@[simp] theorem State.setScript_answers (v : List Turn) : (s.setScript v).answers = s.answers := rfl
@[simp] theorem State.setScript_lane (v : List Turn) (j : LaneNo) : (s.setScript v).lane j = s.lane j := rfl
@[simp] theorem State.setScript_fetch (v : List Turn) : (s.setScript v).fetch = s.fetch := rfl
@[simp] theorem State.setScript_byteAt (v : List Turn) (a' : Quad) : (s.setScript v).byteAt a' = s.byteAt a' := rfl
@[simp] theorem State.setScript_window (v : List Turn) (a' : Quad) : (s.setScript v).window a' = s.window a' := rfl
@[simp] theorem State.setScript_readable (v : List Turn) (a' : Quad) : (s.setScript v).readable a' = s.readable a' := rfl
@[simp] theorem State.setScript_windowReadable (v : List Turn) (a' : Quad) : (s.setScript v).windowReadable a' = s.windowReadable a' := rfl

/-! ### `setPages` -/

@[simp] theorem State.setPages_lanes (v : List Nat) : (s.setPages v).lanes = s.lanes := rfl
@[simp] theorem State.setPages_pc (v : List Nat) : (s.setPages v).pc = s.pc := rfl
@[simp] theorem State.setPages_busy (v : List Nat) : (s.setPages v).busy = s.busy := rfl
@[simp] theorem State.setPages_done (v : List Nat) : (s.setPages v).done = s.done := rfl
@[simp] theorem State.setPages_err (v : List Nat) : (s.setPages v).err = s.err := rfl
@[simp] theorem State.setPages_errCode (v : List Nat) : (s.setPages v).errCode = s.errCode := rfl
@[simp] theorem State.setPages_iw (v : List Nat) : (s.setPages v).iw = s.iw := rfl
@[simp] theorem State.setPages_ix (v : List Nat) : (s.setPages v).ix = s.ix := rfl
@[simp] theorem State.setPages_iy (v : List Nat) : (s.setPages v).iy = s.iy := rfl
@[simp] theorem State.setPages_iz (v : List Nat) : (s.setPages v).iz = s.iz := rfl
@[simp] theorem State.setPages_ptr (v : List Nat) : (s.setPages v).ptr = s.ptr := rfl
@[simp] theorem State.setPages_blkcnt (v : List Nat) : (s.setPages v).blkcnt = s.blkcnt := rfl
@[simp] theorem State.setPages_chcnt (v : List Nat) : (s.setPages v).chcnt = s.chcnt := rfl
@[simp] theorem State.setPages_seedAddr (v : List Nat) : (s.setPages v).seedAddr = s.seedAddr := rfl
@[simp] theorem State.setPages_seedLen (v : List Nat) : (s.setPages v).seedLen = s.seedLen := rfl
@[simp] theorem State.setPages_dataAddr (v : List Nat) : (s.setPages v).dataAddr = s.dataAddr := rfl
@[simp] theorem State.setPages_dataLen (v : List Nat) : (s.setPages v).dataLen = s.dataLen := rfl
@[simp] theorem State.setPages_digest (v : List Nat) : (s.setPages v).digest = s.digest := rfl
@[simp] theorem State.setPages_rom (v : List Nat) : (s.setPages v).rom = s.rom := rfl
@[simp] theorem State.setPages_mem (v : List Nat) : (s.setPages v).mem = s.mem := rfl
@[simp] theorem State.setPages_unreadable (v : List Nat) : (s.setPages v).unreadable = v := rfl
@[simp] theorem State.setPages_script (v : List Nat) : (s.setPages v).script = s.script := rfl
@[simp] theorem State.setPages_reads (v : List Nat) : (s.setPages v).reads = s.reads := rfl
@[simp] theorem State.setPages_answers (v : List Nat) : (s.setPages v).answers = s.answers := rfl
@[simp] theorem State.setPages_lane (v : List Nat) (j : LaneNo) : (s.setPages v).lane j = s.lane j := rfl
@[simp] theorem State.setPages_fetch (v : List Nat) : (s.setPages v).fetch = s.fetch := rfl
@[simp] theorem State.setPages_byteAt (v : List Nat) (a' : Quad) : (s.setPages v).byteAt a' = s.byteAt a' := rfl
@[simp] theorem State.setPages_window (v : List Nat) (a' : Quad) : (s.setPages v).window a' = s.window a' := rfl

/-! ### `noteAnswer` -/

@[simp] theorem State.noteAnswer_lanes (r : HostReg) (v : Quad) : (s.noteAnswer r v).lanes = s.lanes := rfl
@[simp] theorem State.noteAnswer_pc (r : HostReg) (v : Quad) : (s.noteAnswer r v).pc = s.pc := rfl
@[simp] theorem State.noteAnswer_busy (r : HostReg) (v : Quad) : (s.noteAnswer r v).busy = s.busy := rfl
@[simp] theorem State.noteAnswer_done (r : HostReg) (v : Quad) : (s.noteAnswer r v).done = s.done := rfl
@[simp] theorem State.noteAnswer_err (r : HostReg) (v : Quad) : (s.noteAnswer r v).err = s.err := rfl
@[simp] theorem State.noteAnswer_errCode (r : HostReg) (v : Quad) : (s.noteAnswer r v).errCode = s.errCode := rfl
@[simp] theorem State.noteAnswer_iw (r : HostReg) (v : Quad) : (s.noteAnswer r v).iw = s.iw := rfl
@[simp] theorem State.noteAnswer_ix (r : HostReg) (v : Quad) : (s.noteAnswer r v).ix = s.ix := rfl
@[simp] theorem State.noteAnswer_iy (r : HostReg) (v : Quad) : (s.noteAnswer r v).iy = s.iy := rfl
@[simp] theorem State.noteAnswer_iz (r : HostReg) (v : Quad) : (s.noteAnswer r v).iz = s.iz := rfl
@[simp] theorem State.noteAnswer_ptr (r : HostReg) (v : Quad) : (s.noteAnswer r v).ptr = s.ptr := rfl
@[simp] theorem State.noteAnswer_blkcnt (r : HostReg) (v : Quad) : (s.noteAnswer r v).blkcnt = s.blkcnt := rfl
@[simp] theorem State.noteAnswer_chcnt (r : HostReg) (v : Quad) : (s.noteAnswer r v).chcnt = s.chcnt := rfl
@[simp] theorem State.noteAnswer_seedAddr (r : HostReg) (v : Quad) : (s.noteAnswer r v).seedAddr = s.seedAddr := rfl
@[simp] theorem State.noteAnswer_seedLen (r : HostReg) (v : Quad) : (s.noteAnswer r v).seedLen = s.seedLen := rfl
@[simp] theorem State.noteAnswer_dataAddr (r : HostReg) (v : Quad) : (s.noteAnswer r v).dataAddr = s.dataAddr := rfl
@[simp] theorem State.noteAnswer_dataLen (r : HostReg) (v : Quad) : (s.noteAnswer r v).dataLen = s.dataLen := rfl
@[simp] theorem State.noteAnswer_digest (r : HostReg) (v : Quad) : (s.noteAnswer r v).digest = s.digest := rfl
@[simp] theorem State.noteAnswer_rom (r : HostReg) (v : Quad) : (s.noteAnswer r v).rom = s.rom := rfl
@[simp] theorem State.noteAnswer_mem (r : HostReg) (v : Quad) : (s.noteAnswer r v).mem = s.mem := rfl
@[simp] theorem State.noteAnswer_unreadable (r : HostReg) (v : Quad) : (s.noteAnswer r v).unreadable = s.unreadable := rfl
@[simp] theorem State.noteAnswer_script (r : HostReg) (v : Quad) : (s.noteAnswer r v).script = s.script := rfl
@[simp] theorem State.noteAnswer_reads (r : HostReg) (v : Quad) : (s.noteAnswer r v).reads = s.reads := rfl
@[simp] theorem State.noteAnswer_answers (r : HostReg) (v : Quad) : (s.noteAnswer r v).answers = s.answers ++ [(r, v)] := rfl
@[simp] theorem State.noteAnswer_lane (r : HostReg) (v : Quad) (j : LaneNo) : (s.noteAnswer r v).lane j = s.lane j := rfl
@[simp] theorem State.noteAnswer_fetch (r : HostReg) (v : Quad) : (s.noteAnswer r v).fetch = s.fetch := rfl
@[simp] theorem State.noteAnswer_byteAt (r : HostReg) (v : Quad) (a' : Quad) : (s.noteAnswer r v).byteAt a' = s.byteAt a' := rfl
@[simp] theorem State.noteAnswer_window (r : HostReg) (v : Quad) (a' : Quad) : (s.noteAnswer r v).window a' = s.window a' := rfl
@[simp] theorem State.noteAnswer_readable (r : HostReg) (v : Quad) (a' : Quad) : (s.noteAnswer r v).readable a' = s.readable a' := rfl
@[simp] theorem State.noteAnswer_windowReadable (r : HostReg) (v : Quad) (a' : Quad) : (s.noteAnswer r v).windowReadable a' = s.windowReadable a' := rfl

/-! ### `afterRst` -/

@[simp] theorem State.afterRst_pc : (s.afterRst).pc = 0#7 := rfl
@[simp] theorem State.afterRst_busy : (s.afterRst).busy = false := rfl
@[simp] theorem State.afterRst_done : (s.afterRst).done = false := rfl
@[simp] theorem State.afterRst_err : (s.afterRst).err = false := rfl
@[simp] theorem State.afterRst_errCode : (s.afterRst).errCode = 0#4 := rfl
@[simp] theorem State.afterRst_iw : (s.afterRst).iw = 0#128 := rfl
@[simp] theorem State.afterRst_ix : (s.afterRst).ix = 0#128 := rfl
@[simp] theorem State.afterRst_iy : (s.afterRst).iy = 0#128 := rfl
@[simp] theorem State.afterRst_iz : (s.afterRst).iz = 0#128 := rfl
@[simp] theorem State.afterRst_ptr : (s.afterRst).ptr = 0#64 := rfl
@[simp] theorem State.afterRst_blkcnt : (s.afterRst).blkcnt = 0#56 := rfl
@[simp] theorem State.afterRst_chcnt : (s.afterRst).chcnt = 0#3 := rfl
@[simp] theorem State.afterRst_seedAddr : (s.afterRst).seedAddr = 0#64 := rfl
@[simp] theorem State.afterRst_seedLen : (s.afterRst).seedLen = 0#64 := rfl
@[simp] theorem State.afterRst_dataAddr : (s.afterRst).dataAddr = 0#64 := rfl
@[simp] theorem State.afterRst_dataLen : (s.afterRst).dataLen = 0#64 := rfl
@[simp] theorem State.afterRst_digest : (s.afterRst).digest = 0#128 := rfl
@[simp] theorem State.afterRst_rom : (s.afterRst).rom = s.rom := rfl
@[simp] theorem State.afterRst_mem : (s.afterRst).mem = s.mem := rfl
@[simp] theorem State.afterRst_unreadable : (s.afterRst).unreadable = s.unreadable := rfl
@[simp] theorem State.afterRst_script : (s.afterRst).script = s.script := rfl
@[simp] theorem State.afterRst_reads : (s.afterRst).reads = s.reads := rfl
@[simp] theorem State.afterRst_answers : (s.afterRst).answers = s.answers := rfl
@[simp] theorem State.afterRst_byteAt (a' : Quad) : (s.afterRst).byteAt a' = s.byteAt a' := rfl
@[simp] theorem State.afterRst_window (a' : Quad) : (s.afterRst).window a' = s.window a' := rfl
@[simp] theorem State.afterRst_readable (a' : Quad) : (s.afterRst).readable a' = s.readable a' := rfl
@[simp] theorem State.afterRst_windowReadable (a' : Quad) : (s.afterRst).windowReadable a' = s.windowReadable a' := rfl

/-! ### Lanes -/

/-- Reading a lane after a write: the lane written reads as the value, every other as before. -/
theorem State.setLane_lane (i j : LaneNo) (v : Lane) :
    (s.setLane i v).lane j = if j = i then v else s.lane j := by
  have hij : (i.toNat = j.toNat) ↔ (j = i) := by
    rw [BitVec.toNat_inj, eq_comm (a := i)]
  simp only [State.setLane, State.lane, Vector.getElem_set, hij]

@[simp] theorem State.setLane_lane_self (i : LaneNo) (v : Lane) : (s.setLane i v).lane i = v := by
  simp [State.setLane_lane]

theorem State.setLane_lane_ne {i j : LaneNo} (v : Lane) (h : j ≠ i) :
    (s.setLane i v).lane j = s.lane j := by
  simp [State.setLane_lane, h]

@[simp] theorem State.discardWork_lane (j : LaneNo) : s.discardWork.lane j = 0#128 := by
  simp [State.discardWork, State.lane]

@[simp] theorem State.afterRst_lane (j : LaneNo) : s.afterRst.lane j = 0#128 := by
  simp [State.afterRst, State.reset, State.lane]

@[simp] theorem State.reset_lane (j : LaneNo) : State.reset.lane j = 0#128 := by
  simp [State.reset, State.lane]

/-- Two states have the same lanes when every lane reads the same. -/
theorem State.lanes_ext {s t : State} (h : ∀ j, s.lane j = t.lane j) : s.lanes = t.lanes := by
  apply Vector.ext
  intro k hk
  have := h (BitVec.ofNat 3 k)
  simpa [State.lane, BitVec.toNat_ofNat, Nat.mod_eq_of_lt hk] using this

/-! ### The word a state fetches -/

@[simp] theorem State.placeWord_fetch (w : UopWord) : (s.placeWord w).fetch = w := by
  simp [State.placeWord, State.fetch]

@[simp] theorem State.readyToRun_fetch (w : UopWord) : (s.readyToRun w).fetch = w := by
  simp [State.readyToRun, State.placeWord, State.fetch]

end Sys2Proof.Machine
end

