-- ==== Sys2Proof/Laws/Ops.lean ====
section
/-!
SUPPORT. What each shared operation can do, once: the read port, the step rule, the turns of the
script, the host's writes. Later proofs cite these and do not unfold the operations.
-/

namespace Sys2Proof.Machine

/-! ### The read port -/

theorem memRead_of_readable {addr : Quad} {s : State} {k : Lane → State → StepResult}
    (h : s.windowReadable addr = true) : memRead addr s k = k (s.window addr) (s.noteRead addr) := by
  rw [memRead, if_pos h]

theorem memRead_of_unreadable {addr : Quad} {s : State} {k : Lane → State → StepResult}
    (h : s.windowReadable addr = false) : memRead addr s k = .fault (.unreadable addr) := by
  rw [memRead, if_neg (by simp [h])]

/-- A read that answers a next state found its window readable and continued with its bytes. -/
theorem memRead_next {addr : Quad} {s t : State} {k : Lane → State → StepResult}
    (h : memRead addr s k = .next t) :
    s.windowReadable addr = true ∧ k (s.window addr) (s.noteRead addr) = .next t := by
  by_cases hr : s.windowReadable addr = true
  · exact ⟨hr, by rwa [memRead_of_readable hr] at h⟩
  · rw [memRead_of_unreadable (by simpa using hr)] at h; cases h

/-- A window is readable exactly when each of its sixteen bytes is. -/
theorem windowReadable_iff (s : State) (addr : Quad) :
    s.windowReadable addr = true ↔ ∀ i, i < 16 → s.readable (addr + BitVec.ofNat 64 i) = true := by
  simp [State.windowReadable, Config.readBytes]

/-- A byte is readable exactly when its page is not listed. -/
theorem readable_iff (s : State) (a : Quad) : s.readable a = true ↔ a.toNat / 4096 ∉ s.unreadable := by
  simp [State.readable, pageOf, Config.pageBytes]

/-! ### Turns -/

theorem nextTurn_nil {s : State} (h : s.script = []) : nextTurn s = sequencerTurn s := by
  rw [nextTurn, h]

theorem nextTurn_sequencer {s : State} {rest : List Turn} (h : s.script = .sequencer :: rest) :
    nextTurn s = sequencerTurn (s.setScript rest) := by
  rw [nextTurn, h]

theorem nextTurn_host {s : State} {a : HostAction} {rest : List Turn} (h : s.script = .host a :: rest) :
    nextTurn s = hostAct a (s.setScript rest) := by
  rw [nextTurn, h]

/-- A step is a turn of the sequencer or of the host, on the state with that turn taken off the script. -/
theorem step_cases (s : State) :
    (s.script = [] ∧ step s = sequencerTurn s) ∨
    (∃ rest, s.script = .sequencer :: rest ∧ step s = sequencerTurn (s.setScript rest)) ∨
    (∃ a rest, s.script = .host a :: rest ∧ step s = hostAct a (s.setScript rest)) := by
  match h : s.script with
  | [] => exact .inl ⟨rfl, nextTurn_nil h⟩
  | .sequencer :: rest => exact .inr (.inl ⟨rest, rfl, nextTurn_sequencer h⟩)
  | .host a :: rest => exact .inr (.inr ⟨a, rest, rfl, nextTurn_host h⟩)

theorem sequencerTurn_idle {s : State} (h : s.busy = false) : sequencerTurn s = .next s := by
  simp [sequencerTurn, h]

theorem sequencerTurn_legal {s : State} {i : Instr} (hb : s.busy = true) (h : decode s.fetch = .ok i) :
    sequencerTurn s = exec i s := by
  simp [sequencerTurn, hb, h]

theorem sequencerTurn_illegal {s : State} {e : Illegal} (hb : s.busy = true) (h : decode s.fetch = .error e) :
    sequencerTurn s = .refused (.illegalWord s.fetch) := by
  simp [sequencerTurn, hb, h]

/-- A turn of the sequencer that answers a next state held an idle block or executed the word it fetched. -/
theorem sequencerTurn_next {s t : State} (h : sequencerTurn s = .next t) :
    (s.busy = false ∧ t = s) ∨ (s.busy = true ∧ ∃ i, decode s.fetch = .ok i ∧ exec i s = .next t) := by
  cases hb : s.busy with
  | false =>
    rw [sequencerTurn_idle hb] at h
    exact .inl ⟨rfl, by injection h with h; exact h.symm⟩
  | true =>
    cases hd : decode s.fetch with
    | ok i => exact .inr ⟨rfl, i, rfl, by rwa [sequencerTurn_legal hb hd] at h⟩
    | error e => rw [sequencerTurn_illegal hb hd] at h; cases h

/-! ### The host -/

theorem hostWrite_busy {s : State} (h : s.busy = true) (r : HostReg) (v : Quad) : hostWrite r v s = .next s := by
  simp [hostWrite, h]

/-- START that answers a next state rejected a wrong seed length or began a run. -/
theorem startCommand_next {s t : State} (h : startCommand s = .next t) :
    (s.seedLen ≠ 128#64 ∧ t = s.clearStatus.raiseInvalidSeedLength) ∨
    (s.seedLen = 128#64 ∧ s.objectsFit = true ∧ t = s.clearStatus.launch) := by
  have hfit : s.clearStatus.objectsFit = s.objectsFit := rfl
  simp only [startCommand, State.clearStatus_seedLen, Config.seedBytes, hfit] at h
  by_cases hl : s.seedLen = 128#64
  · rw [if_neg (by simpa using hl)] at h
    by_cases hf : s.objectsFit = true
    · rw [if_pos hf] at h
      exact .inr ⟨hl, hf, by injection h with h; exact h.symm⟩
    · rw [if_neg hf] at h; cases h
  · rw [if_pos hl] at h
    exact .inl ⟨hl, by injection h with h; exact h.symm⟩

/-- A host write that answers a next state: ignored, START, CLR, or one parameter register stored. -/
theorem hostWrite_next {s t : State} {r : HostReg} {v : Quad} (h : hostWrite r v s = .next t) :
    t = s ∨
    (s.busy = false ∧ s.seedLen ≠ 128#64 ∧ t = s.clearStatus.raiseInvalidSeedLength) ∨
    (s.busy = false ∧ s.seedLen = 128#64 ∧ s.objectsFit = true ∧ t = s.clearStatus.launch) ∨
    (s.busy = false ∧ t = s.clearStatus) ∨
    (s.busy = false ∧ (t = s.setSeedAddr v ∨ t = s.setSeedLen v ∨
      t = s.setDataAddr v ∨ t = s.setDataLen v)) := by
  cases hb : s.busy with
  | true =>
    rw [hostWrite_busy hb] at h
    exact .inl (by injection h with h; exact h.symm)
  | false =>
    simp only [hostWrite, hb, Bool.false_eq_true, if_false] at h
    cases r with
    | ctrl =>
      simp only [ctrlWrite] at h
      split at h
      · rcases startCommand_next h with h | h
        · exact .inr (.inl ⟨rfl, h⟩)
        · exact .inr (.inr (.inl ⟨rfl, h⟩))
      · split at h
        · exact .inr (.inr (.inr (.inl ⟨rfl, by injection h with h; exact h.symm⟩)))
        · exact .inl (by injection h with h; exact h.symm)
    | status => exact .inl (by injection h with h; exact h.symm)
    | digestLo => exact .inl (by injection h with h; exact h.symm)
    | digestHi => exact .inl (by injection h with h; exact h.symm)
    | seedAddr => exact .inr (.inr (.inr (.inr ⟨rfl, .inl (by injection h with h; exact h.symm)⟩)))
    | seedLen => exact .inr (.inr (.inr (.inr ⟨rfl, .inr (.inl (by injection h with h; exact h.symm))⟩)))
    | dataAddr => exact .inr (.inr (.inr (.inr ⟨rfl, .inr (.inr (.inl (by injection h with h; exact h.symm)))⟩)))
    | dataLen => exact .inr (.inr (.inr (.inr ⟨rfl, .inr (.inr (.inr (by injection h with h; exact h.symm)))⟩)))

/-- A store of the platform that answers a next state wrote the byte, and changed no byte of an owned
page of a run in progress. -/
theorem platformStore_next {s t : State} {a : Quad} {b : Byte} (h : platformStore a b s = .next t) :
    t = s.setByte a b ∧
      (s.busy = true → s.ownsPage (pageOf a.toNat) = true → s.byteAt a = b) := by
  rw [platformStore] at h
  split at h
  · cases h
  · next hc =>
    refine ⟨by injection h with h; exact h.symm, fun hb ho => ?_⟩
    simpa [hb, ho] using hc

/-- Reading memory after a store of the platform. -/
theorem setByte_byteAt {s : State} (h : Memory.wf s.mem = true) (a b : Quad) (v : Byte) :
    (s.setByte a v).byteAt b = if b = a then v else s.byteAt b := by
  simp only [State.byteAt, State.setByte_mem, memGet_memSet _ _ _ _ h, BitVec.toNat_inj]

end Sys2Proof.Machine
end

