-- ==== Sys2Proof/Laws/Meanings.lean ====
section
/-!
SUPPORT. What each meaning that reads memory answers, once: the state it answers when its reads are
readable, and the converse. The other meanings answer one state on every input, by definition.
-/

namespace Sys2Proof.Machine

/-! ### SEED -/

theorem execSeed_readable {a : LaneNo} {s : State} (h : s.windowReadable (seedReadAddr s a) = true) :
    execSeed a s =
      .next ((s.noteRead (seedReadAddr s a)).setLane a (s.window (seedReadAddr s a))).advance :=
  memRead_of_readable h

theorem execSeed_unreadable {a : LaneNo} {s : State} (h : s.windowReadable (seedReadAddr s a) = false) :
    execSeed a s = .fault (.unreadable (seedReadAddr s a)) :=
  memRead_of_unreadable h

theorem execSeed_next {a : LaneNo} {s t : State} (h : execSeed a s = .next t) :
    s.windowReadable (seedReadAddr s a) = true ∧
      t = ((s.noteRead (seedReadAddr s a)).setLane a (s.window (seedReadAddr s a))).advance := by
  obtain ⟨hr, h⟩ := memRead_next h
  exact ⟨hr, by injection h with h; exact h.symm⟩

/-! ### LDC -/

/-- The state after the four reads of a chunk at `PTR`. -/
def State.chunkLoaded (s : State) : State :=
  let p := s.ptr
  (((((((((s.noteRead (p + 15#64)).setIw (s.window (p + 15#64))).noteRead p).setIx (s.window p)).noteRead
    (p + 1#64)).setIy (s.window (p + 1#64))).noteRead (p + 16#64)).setIz (s.window (p + 16#64))).setPtr
    (p + 32#64)).advance

/-- The four windows of a chunk at `PTR` can be read. -/
def State.chunkReadable (s : State) : Prop :=
  s.windowReadable (s.ptr + 15#64) = true ∧ s.windowReadable s.ptr = true ∧
    s.windowReadable (s.ptr + 1#64) = true ∧ s.windowReadable (s.ptr + 16#64) = true

theorem execLdc_readable {s : State} (h : s.chunkReadable) : execLdc s = .next s.chunkLoaded := by
  obtain ⟨h1, h2, h3, h4⟩ := h
  simp only [execLdc]
  rw [memRead_of_readable h1, memRead_of_readable (by simpa using h2), memRead_of_readable (by simpa using h3),
    memRead_of_readable (by simpa using h4)]
  rfl

theorem execLdc_unreadable_w {s : State} (h : s.windowReadable (s.ptr + 15#64) = false) :
    execLdc s = .fault (.unreadable (s.ptr + 15#64)) := by
  simp only [execLdc]
  rw [memRead_of_unreadable h]

theorem execLdc_unreadable_x {s : State} (hw : s.windowReadable (s.ptr + 15#64) = true)
    (h : s.windowReadable s.ptr = false) : execLdc s = .fault (.unreadable s.ptr) := by
  simp only [execLdc]
  rw [memRead_of_readable hw, memRead_of_unreadable (by simpa using h)]

theorem execLdc_unreadable_z {s : State} (hw : s.windowReadable (s.ptr + 15#64) = true)
    (hx : s.windowReadable s.ptr = true) (hy : s.windowReadable (s.ptr + 1#64) = true)
    (h : s.windowReadable (s.ptr + 16#64) = false) :
    execLdc s = .fault (.unreadable (s.ptr + 16#64)) := by
  simp only [execLdc]
  rw [memRead_of_readable hw, memRead_of_readable (by simpa using hx), memRead_of_readable (by simpa using hy),
    memRead_of_unreadable (by simpa using h)]

theorem execLdc_next {s t : State} (h : execLdc s = .next t) : s.chunkReadable ∧ t = s.chunkLoaded := by
  have h0 := h
  simp only [execLdc] at h
  obtain ⟨h1, h⟩ := memRead_next h
  obtain ⟨h2, h⟩ := memRead_next h
  obtain ⟨h3, h⟩ := memRead_next h
  obtain ⟨h4, h⟩ := memRead_next h
  have hc : s.chunkReadable := ⟨h1, by simpa using h2, by simpa using h3, by simpa using h4⟩
  rw [execLdc_readable hc] at h0
  injection h0 with h0
  exact ⟨hc, h0.symm⟩

/-! ### LDP -/

theorem execLdp_whole {s : State} (h : tailLenOf s.dataLen = 0) :
    execLdp s = .next ((s.setIx 0#128).setIz 0#128).advance := by
  exact if_pos h

theorem execLdp_partial {s : State} (h : tailLenOf s.dataLen ≠ 0)
    (hr : s.windowReadable (partialAddr s.dataAddr s.dataLen) = true) :
    execLdp s =
      .next ((((s.setIx 0#128).setIz 0#128).noteRead (partialAddr s.dataAddr s.dataLen)).setIx
        (partialOf s.dataAddr s.dataLen (s.window (partialAddr s.dataAddr s.dataLen)))).advance := by
  exact (if_neg h).trans (memRead_of_readable hr)

theorem execLdp_unreadable {s : State} (h : tailLenOf s.dataLen ≠ 0)
    (hr : s.windowReadable (partialAddr s.dataAddr s.dataLen) = false) :
    execLdp s = .fault (.unreadable (partialAddr s.dataAddr s.dataLen)) := by
  exact (if_neg h).trans (memRead_of_unreadable hr)

/-! ### LDF -/

theorem execLdf_short {s : State} (h : full16Of s.dataLen = false) : execLdf s = .next s.advance := by
  rw [execLdf, if_neg (by simp [h])]

theorem execLdf_full {s : State} (h : full16Of s.dataLen = true)
    (hr : s.windowReadable (lastAddr s.dataAddr s.dataLen - 16#64) = true) :
    execLdf s =
      .next (((s.setIz s.ix).noteRead (lastAddr s.dataAddr s.dataLen - 16#64)).setIx
        (s.window (lastAddr s.dataAddr s.dataLen - 16#64))).advance := by
  rw [execLdf, if_pos h]; exact memRead_of_readable hr

theorem execLdf_unreadable {s : State} (h : full16Of s.dataLen = true)
    (hr : s.windowReadable (lastAddr s.dataAddr s.dataLen - 16#64) = false) :
    execLdf s = .fault (.unreadable (lastAddr s.dataAddr s.dataLen - 16#64)) := by
  rw [execLdf, if_pos h]; exact memRead_of_unreadable hr

/-! ### The derived lengths as numbers -/

theorem tailLenOf_eq (len : Quad) : tailLenOf len = len.toNat % 16 := by
  rw [tailLenOf, BitVec.toNat_and]
  exact Nat.and_two_pow_sub_one_eq_mod len.toNat 4

theorem full16Of_eq (len : Quad) : full16Of len = decide (len.toNat / 16 % 2 = 1) := by
  rw [full16Of, ← BitVec.testBit_toNat, Nat.testBit_eq_decide_div_mod_eq]

theorem blocksOf_toNat (len : Quad) : (blocksOf len).toNat = len.toNat / 256 := by
  have := len.isLt
  simp only [blocksOf, BitVec.extractLsb'_toNat, Nat.shiftRight_eq_div_pow]
  omega

theorem chunksOf_toNat (len : Quad) : (chunksOf len).toNat = len.toNat / 32 % 8 := by
  simp only [chunksOf, BitVec.extractLsb'_toNat, Nat.shiftRight_eq_div_pow]

end Sys2Proof.Machine
end

