-- ==== Sys2Proof/Laws/PerInstr.lean ====
section
/-!
SUPPORT. A family of lemmas, one per micro-operation: the word of a term belongs to the row of its own
mnemonic, whatever its operands are (30_encoding.md R81 to R84). No reserved bit is ever written.
-/

namespace Sys2Proof.Laws

/-- The encoded word passes the mask and match test of the row with the term's mnemonic (R82). -/
def EncodeLegal.Statement (i : Instr) : Prop :=
  ∃ r ∈ opcodeRows, r.mnemonic = i.mnemonic ∧ encode i &&& r.mask = r.pattern

/-- A lane field below bit 18 stays clear of opcode and reserved bits. -/
theorem lane_field_masked (v : LaneNo) :
    putField v 0 &&& 0xFFFFFFF8#32 = 0#32 ∧
    putField v 0 &&& 0xFFFFFFC0#32 = 0#32 ∧ putField v 3 &&& 0xFFFFFFC0#32 = 0#32 ∧
    putField v 0 &&& 0xFFFF8000#32 = 0#32 ∧ putField v 3 &&& 0xFFFF8000#32 = 0#32 ∧
    putField v 6 &&& 0xFFFF8000#32 = 0#32 ∧ putField v 9 &&& 0xFFFF8000#32 = 0#32 ∧
    putField v 12 &&& 0xFFFF8000#32 = 0#32 ∧
    putField v 0 &&& 0xFFFC0000#32 = 0#32 ∧ putField v 3 &&& 0xFFFC0000#32 = 0#32 ∧
    putField v 6 &&& 0xFFFC0000#32 = 0#32 ∧ putField v 9 &&& 0xFFFC0000#32 = 0#32 ∧
    putField v 12 &&& 0xFFFC0000#32 = 0#32 ∧ putField v 15 &&& 0xFFFC0000#32 = 0#32 := by
  revert v; decide

/-- A target field stays clear of opcode and reserved bits. -/
theorem target_field_masked (t : UAddr) : putField t 0 &&& 0xFFFFFF80#32 = 0#32 := by
  revert t; decide

theorem or_and (p q m : UopWord) : (p ||| q) &&& m = (p &&& m) ||| (q &&& m) := by
  ext i; simp only [BitVec.getElem_and, BitVec.getElem_or, Bool.and_or_distrib_right]

theorem EncodeLegal.seed (a : LaneNo) : EncodeLegal.Statement (.seed a) :=
  ⟨⟨"SEED", 0x10000000#32, 0xFFFFFFF8#32⟩, by decide, rfl, by
    simp only [encode, or_and, lane_field_masked a]; rfl⟩

theorem EncodeLegal.blk (t : UAddr) : EncodeLegal.Statement (.blk t) :=
  ⟨⟨"BLK", 0x20000000#32, 0xFFFFFF80#32⟩, by decide, rfl, by
    simp only [encode, or_and, target_field_masked t]; rfl⟩

theorem EncodeLegal.ldc : EncodeLegal.Statement .ldc :=
  ⟨⟨"LDC", 0x30000000#32, 0xFFFFFFFF#32⟩, by decide, rfl, rfl⟩

theorem EncodeLegal.mix (a b c d e : LaneNo) : EncodeLegal.Statement (.mix a b c d e) :=
  ⟨⟨"MIX", 0x40000000#32, 0xFFFF8000#32⟩, by decide, rfl, by
    simp only [encode, or_and, lane_field_masked]; rfl⟩

theorem EncodeLegal.jmp (t : UAddr) : EncodeLegal.Statement (.jmp t) :=
  ⟨⟨"JMP", 0x50000000#32, 0xFFFFFF80#32⟩, by decide, rfl, by
    simp only [encode, or_and, target_field_masked t]; rfl⟩

theorem EncodeLegal.ldp : EncodeLegal.Statement .ldp :=
  ⟨⟨"LDP", 0x60000000#32, 0xFFFFFFFF#32⟩, by decide, rfl, rfl⟩

theorem EncodeLegal.ldf : EncodeLegal.Statement .ldf :=
  ⟨⟨"LDF", 0x70000000#32, 0xFFFFFFFF#32⟩, by decide, rfl, rfl⟩

theorem EncodeLegal.inj : EncodeLegal.Statement .inj :=
  ⟨⟨"INJ", 0x80000000#32, 0xFFFFFFFF#32⟩, by decide, rfl, rfl⟩

theorem EncodeLegal.lenv : EncodeLegal.Statement .lenv :=
  ⟨⟨"LENV", 0x90000000#32, 0xFFFFFFFF#32⟩, by decide, rfl, rfl⟩

theorem EncodeLegal.chk (t : UAddr) : EncodeLegal.Statement (.chk t) :=
  ⟨⟨"CHK", 0xA0000000#32, 0xFFFFFF80#32⟩, by decide, rfl, by
    simp only [encode, or_and, target_field_masked t]; rfl⟩

theorem EncodeLegal.shuf (a b c d e f : LaneNo) : EncodeLegal.Statement (.shuf a b c d e f) :=
  ⟨⟨"SHUF", 0xB0000000#32, 0xFFFC0000#32⟩, by decide, rfl, by
    simp only [encode, or_and, lane_field_masked]; rfl⟩

theorem EncodeLegal.addq (a b : LaneNo) : EncodeLegal.Statement (.addq a b) :=
  ⟨⟨"ADDQ", 0xC0000000#32, 0xFFFFFFC0#32⟩, by decide, rfl, by
    simp only [encode, or_and, lane_field_masked]; rfl⟩

theorem EncodeLegal.xorv (a b : LaneNo) : EncodeLegal.Statement (.xorv a b) :=
  ⟨⟨"XORV", 0xD0000000#32, 0xFFFFFFC0#32⟩, by decide, rfl, by
    simp only [encode, or_and, lane_field_masked]; rfl⟩

theorem EncodeLegal.fin : EncodeLegal.Statement .fin :=
  ⟨⟨"FIN", 0xE0000000#32, 0xFFFFFFFF#32⟩, by decide, rfl, rfl⟩

end Sys2Proof.Laws
end

