-- ==== Sys2Proof/Machine/Assembly.lean ====
section
/-!
DEFINITION. The two notations the spec prints in, which the block itself does not compute: the
listing syntax of a micro-operation (30_encoding.md R88) and the text form of a digest (00_scope.md
R15).
-/

namespace Sys2Proof.Machine

/-- A hexadecimal digit, in capitals. -/
def hexDigit (n : Nat) : Char :=
  ['0', '1', '2', '3', '4', '5', '6', '7', '8', '9', 'A', 'B', 'C', 'D', 'E', 'F'].getD n '?'

/-- The low `4 * k` bits of `n` as `k` hexadecimal digits, leading zeros kept. -/
def hexDigits : Nat → Nat → List Char
  | 0, _ => []
  | k + 1, n => hexDigits k (n / 16) ++ [hexDigit (n % 16)]

/-- Lane fields as decimal digits separated by commas (R88). -/
def laneDigits (ls : List LaneNo) : List Char :=
  List.intercalate [','] (ls.map fun l => [hexDigit l.toNat])

/-- A target as `0x` and two hexadecimal digits (R88). -/
def targetDigits (t : UAddr) : List Char := ['0', 'x'] ++ hexDigits 2 t.toNat

/-- One line of a listing, as characters (R88). -/
def asmChars : Instr → List Char
  | .seed a => ['S', 'E', 'E', 'D', ' '] ++ laneDigits [a]
  | .blk t => ['B', 'L', 'K', ' '] ++ targetDigits t
  | .ldc => ['L', 'D', 'C']
  | .mix a b c d e => ['M', 'I', 'X', ' '] ++ laneDigits [a, b, c, d, e]
  | .jmp t => ['J', 'M', 'P', ' '] ++ targetDigits t
  | .ldp => ['L', 'D', 'P']
  | .ldf => ['L', 'D', 'F']
  | .inj => ['I', 'N', 'J']
  | .lenv => ['L', 'E', 'N', 'V']
  | .chk t => ['C', 'H', 'K', ' '] ++ targetDigits t
  | .shuf a b c d e f => ['S', 'H', 'U', 'F', ' '] ++ laneDigits [a, b, c, d, e, f]
  | .addq a b => ['A', 'D', 'D', 'Q', ' '] ++ laneDigits [a, b]
  | .xorv a b => ['X', 'O', 'R', 'V', ' '] ++ laneDigits [a, b]
  | .fin => ['F', 'I', 'N']

/-- The text form of a digest: `D[127:96]-D[95:64]-D[63:32]-D[31:0]`, each word eight capital
hexadecimal digits (R15). -/
def digestChars (d : Lane) : List Char :=
  List.intercalate ['-'] ([96, 64, 32, 0].map fun lo => hexDigits 8 (d.extractLsb' lo 32).toNat)

end Sys2Proof.Machine
end

