-- ==== Sys2Proof/Tests/Slice0.lean ====
section
/-!
SUPPORT. Our own tests: the smoke test of the well-formedness checks, words written out from the spec's
encodings, single steps with the values of 95_test_vectors.md, and for every statement that has
hypotheses a state that meets them.
-/

namespace Sys2Proof.Tests

open Sys2Proof Sys2Proof.Machine

-- One theorem after the other: dozens of kernel evaluations at once would exceed the memory limit.
set_option Elab.async false

/-! ### Helpers -/

/-- A value of the next state, or none where there is no next state. -/
def after {α : Type} (r : StepResult) (f : State → α) : Option α :=
  match r with
  | .next t => some (f t)
  | .fault _ => none
  | .refused _ => none

/-- The fault of a result. -/
def faultOf (r : StepResult) : Option Fault :=
  match r with
  | .next _ => none
  | .fault e => some e
  | .refused _ => none

/-- The refusal of a result. -/
def refusalOf (r : StepResult) : Option Refusal :=
  match r with
  | .next _ => none
  | .fault _ => none
  | .refused e => some e

theorem next_of_after {r : StepResult} (h : after r (fun _ => ()) = some ()) : ∃ t, r = .next t := by
  cases r with
  | next t => exact ⟨t, rfl⟩
  | fault e => cases h
  | refused e => cases h

/-- `bytes(b, b+1, ..., b+15)`. -/
def ramp (b : Nat) : Lane := ofBytes fun i => BitVec.ofNat 8 (b + i)

/-- `n` bytes `b, b+1, ...` from address `a` on. -/
def rampMem (a b n : Nat) : List Host.Cell := (List.range n).map fun k => (a + k, BitVec.ofNat 8 (b + k))

/-- A run in progress, at word `pc`. -/
def busyAt (pc : UAddr) : State := { State.reset with busy := true, seedLen := 128#64, pc := pc }

/-- Lanes `x[i] = bytes(16i .. 16i+15)` (95_test_vectors.md section 3.5). -/
def rampLanes (pc : UAddr) : State :=
  { busyAt pc with lanes := #v[ramp 0, ramp 16, ramp 32, ramp 48, ramp 64, ramp 80, ramp 96, ramp 112] }

/-- A host write of `CTRL` with START, as the whole script. -/
def startScript : List Turn := [.host (.write .ctrl 1#64)]

/-! ### Well-formedness: each check refuses an ill-formed term or word -/

/-- A reserved bit set, or opcode 0x0 or 0xF, makes a word illegal (95 section 3.1). -/
theorem test_legalWord_refuses :
    [0x00000000#32, 0xF0000000#32, 0xFFFFFFFF#32, 0x10000008#32, 0x20000080#32, 0x30000001#32, 0x40008000#32,
      0x58000008#32, 0x60000010#32, 0x70000100#32, 0x80001000#32, 0x90010000#32, 0xA0000136#32, 0xB0040000#32,
      0xC0000040#32, 0xD0000040#32, 0xE0000001#32].any legalWord = false := by decide

theorem test_legalWord_accepts_the_rom : romWords.all legalWord = true := by decide +kernel

/-- Terms outside the schedules of the micro-program. -/
theorem test_scheduled_refuses :
    [Instr.mix 0 0 0 0 0, .mix 0 4 6 1 0, .shuf 0 1 2 4 5 0, .blk 0x1B, .jmp 0x09, .chk 0x35, .addq 3 3,
      .xorv 2 2].any Instr.scheduled = false := by decide

theorem test_listing_scheduled_and_wf : listing.all (fun i => i.scheduled && i.wf) = true := by decide

/-- A row's mask and pattern together: a wrong pattern is not accepted. -/
theorem test_accepts_refuses : (OpcodeRow.accepts ⟨"SEED", 0x10000000#32, 0xFFFFFFF8#32⟩ 0x10000010#32) = false := by
  decide

/-- Memory forms that are not canonical: unsorted, repeated, an entry an unlisted address reads as, an
address outside the address space. -/
theorem test_memory_wf_refuses :
    Memory.wf [(5, 1#8), (4, 1#8)] = false ∧ Memory.wf [(5, 1#8), (5, 2#8)] = false ∧
    Memory.wf [(5, 0#8)] = false ∧ Memory.wf [(2 ^ 64, 1#8)] = false ∧ Pages.wf [3, 3] = false ∧
    Pages.wf [2 ^ 52] = false := by decide +kernel

/-! ### Decoding: words written out from R81 and R82, bit fields left to right -/

theorem test_decode_seed : decode 0b0001_0000000000000000000000000_111#32 = .ok (.seed 7) := by decide
theorem test_decode_blk : decode 0b0010_000000000000000000000_0011010#32 = .ok (.blk 0x1A) := by decide
theorem test_decode_ldc : decode 0b0011_0000000000000000000000000000#32 = .ok .ldc := by decide
theorem test_decode_mix : decode 0b0100_0000000000000_101_100_011_010_001#32 = .ok (.mix 1 2 3 4 5) := by decide
theorem test_decode_jmp : decode 0b0101_000000000000000000000_0001000#32 = .ok (.jmp 0x08) := by decide
theorem test_decode_ldp : decode 0b0110_0000000000000000000000000000#32 = .ok .ldp := by decide
theorem test_decode_ldf : decode 0b0111_0000000000000000000000000000#32 = .ok .ldf := by decide
theorem test_decode_inj : decode 0b1000_0000000000000000000000000000#32 = .ok .inj := by decide
theorem test_decode_lenv : decode 0b1001_0000000000000000000000000000#32 = .ok .lenv := by decide
theorem test_decode_chk : decode 0b1010_000000000000000000000_1111111#32 = .ok (.chk 0x7F) := by decide
theorem test_decode_shuf :
    decode 0b1011_0000000000_000_001_010_011_100_101#32 = .ok (.shuf 5 4 3 2 1 0) := by decide
theorem test_decode_addq : decode 0b1100_0000000000000000000000_000_011#32 = .ok (.addq 3 0) := by decide
theorem test_decode_xorv : decode 0b1101_0000000000000000000000_110_010#32 = .ok (.xorv 2 6) := by decide
theorem test_decode_fin : decode 0b1110_0000000000000000000000000000#32 = .ok .fin := by decide

/-- The reason an illegal word is refused by (R85). -/
theorem test_decode_illegal :
    decode 0x00000000#32 = .error .opcode ∧ decode 0xFFFFFFFF#32 = .error .opcode ∧
    decode 0x58000008#32 = .error .reservedBit ∧ decode 0x40008000#32 = .error .reservedBit := by decide

/-- Words of the ROM listing of R221 with the micro-operation printed beside them. -/
theorem test_decode_rom_words :
    decode 0x400023A0#32 = .ok (.mix 0 4 6 1 2) ∧ decode 0x4000115F#32 = .ok (.mix 7 3 5 0 1) ∧
    decode 0xB002C647#32 = .ok (.shuf 7 0 1 3 4 5) ∧ decode 0xD000002C#32 = .ok (.xorv 4 5) ∧
    decode 0xA0000036#32 = .ok (.chk 0x36) := by decide

theorem test_decodeTableWord : decodeTableWord 32 0xC000003D = some (.addq 5 7) ∧ decodeTableWord 32 0 = none := by
  decide

/-- A word placed by `withFetchWord` is the one the first step after reset runs. -/
theorem test_withFetchWord_runs :
    after (step (State.reset.withFetchWord 32 0x50000008)) (·.pc) = some 0x08#7 := by decide +kernel

/-! ### Datapath vectors (95 sections 2.2 to 2.7) -/

theorem test_aesRound :
    aesRound (ramp 0) (ramp 0xA0) = 0xFE35106A1958E6BFC98FBC8ABF3402B3#128 ∧
    aesRound 0x80000000000000000000000000000000#128 0#128 = 0x525252525487EC575252525252525252#128 ∧
    aesRound 0x00000000000000000000000000000100#128 0#128 = 0x525252525252525290E77D5152525252#128 := by
  decide +kernel

theorem test_aes_steps :
    invShiftRows (ramp 0) = 0x0306090C0F0205080B0E0104070A0D00#128 ∧
    invSubBytes (ramp 0xF0) = 0x7D0C2155631469E126D677BA7E042B17#128 ∧
    invMixColumns 0xBCA14D8EBCA14D8EBCA14D8EBCA14D8E#128 = 0x455313DB455313DB455313DB455313DB#128 := by
  decide +kernel

theorem test_add64x2 :
    add64x2 (BitVec.allOnes 128) 1#128 = 0xFFFFFFFFFFFFFFFF0000000000000000#128 ∧
    add64x2 0x6F6E6D6C6B6A69686766656463626160#128 0x9E9D9C9B9A999897969594939291908F#128 =
      0x0E0C0A08060401FFFDFBF9F7F5F3F1EF#128 := by decide +kernel

theorem test_align_rotbytes_maskbytes :
    align (ramp 0) (ramp 16) 15 = 0x1E1D1C1B1A191817161514131211100F#128 ∧
    align (ramp 0) (ramp 16) 1 = 0x100F0E0D0C0B0A090807060504030201#128 ∧
    rotbytes (ramp 0) 11 = 0x0A09080706050403020100_0F0E0D0C0B#128 ∧
    rotbytes (ramp 0) 1 = 0x000F0E0D0C0B0A090807060504030201#128 ∧
    maskbytes (ramp 16) 5 = 0x1413121110#128 := by decide +kernel

/-! ### One step of each micro-operation (95 sections 3.2 to 3.10) -/

/-- `SEED 5` at `pc = 0x10`: the lane field, not `pc`, selects the 16 bytes. -/
theorem test_seed :
    after (exec (.seed 5) { busyAt 0x10 with seedAddr := 0x1000#64, mem := rampMem 0x1050 0x50 16 })
      (fun t => (t.lane 5, t.pc, t.reads)) = some (ramp 0x50, 0x11#7, [0x1050#64]) := by decide +kernel

theorem test_seed_unreadable :
    faultOf (exec (.seed 1) { busyAt 1 with seedAddr := 0xFE8#64, unreadable := [1] }) =
      some (.unreadable 0xFF8#64) := by decide +kernel

/-- Not taken at `pc = 0x7F`: `pc + 1` wraps in 7 bits. -/
theorem test_blk_counts_and_wraps :
    after (exec (.blk 0x10) { busyAt 0x7F with blkcnt := 1#56 }) (fun t => (t.pc, t.blkcnt)) =
      some (0#7, 0#56) := by decide +kernel

theorem test_blk_branches :
    after (exec (.blk 0x1A) (busyAt 0x08)) (fun t => (t.pc, t.blkcnt)) = some (0x1A#7, 0#56) := by decide +kernel

theorem test_ldc :
    after (exec .ldc { busyAt 0x09 with ptr := 0x2000#64, mem := rampMem 0x2000 0x80 32 })
      (fun t => (t.iw, t.ix, t.iy, t.iz, t.ptr)) =
      some (ramp 0x8F, ramp 0x80, ramp 0x81, ramp 0x90, 0x2020#64) := by decide +kernel

/-- The last chunk of the address space: `PTR` wraps, no read does. -/
theorem test_ldc_top_of_memory :
    after (exec .ldc { busyAt 0x22 with ptr := 0xFFFFFFFFFFFFFFE0#64 }) (fun t => (t.reads, t.ptr)) =
      some ([0xFFFFFFFFFFFFFFEF#64, 0xFFFFFFFFFFFFFFE0#64, 0xFFFFFFFFFFFFFFE1#64, 0xFFFFFFFFFFFFFFF0#64], 0#64) := by
  decide +kernel

theorem test_mix :
    after (exec (.mix 0 4 6 1 2) { rampLanes 0x0A with iw := ramp 0x8F, ix := ramp 0x80, iy := ramp 0x81, iz := ramp 0x90 })
      (fun t => (t.lane 0, t.lane 1, t.lane 2, t.lane 4, t.lane 6)) =
      some (0x1ED5F08AF9B8065F296F5C6A5FD4E253#128, 0x80808080808080808080808080808080#128,
        0xBFBDBBB9B7B5B3B1AFADABA9A7A5A3A1#128, 0x000102030405060708090A0B0C0D0E0F#128,
        0x0E0C0A08060401FFFDFBF9F7F5F3F1EF#128) := by decide +kernel

/-- All fields equal: the six steps act on `x[0]` in turn. -/
theorem test_mix_equal_fields :
    after (exec (.mix 0 0 0 0 0) { rampLanes 0 with iw := ramp 0x8F, ix := ramp 0x80, iy := ramp 0x81, iz := ramp 0x90 })
      (fun t => (t.lane 0, t.lane 1)) = some (0xB8C7D5DB294093A21435688E65F725B9#128, ramp 16) := by decide +kernel

theorem test_jmp : after (exec (.jmp 0x08) (busyAt 0x19)) (·.pc) = some 0x08#7 := by decide +kernel

/-- Shifted by 11: the buffer ends with its page, and the next page is unreadable. -/
theorem test_ldp_shifted :
    after (exec .ldp { busyAt 0x1A with dataAddr := 0x2FFB#64, dataLen := 5#64, mem := rampMem 0x2FFB 0x80 5,
                                        unreadable := [3] }) (fun t => (t.ix, t.iz, t.reads)) =
      some (0x8483828180#128, 0#128, [0x2FF0#64]) := by decide +kernel

/-- The partial straddles a page boundary: not shifted. -/
theorem test_ldp_straddles :
    after (exec .ldp { busyAt 0x1A with dataAddr := 0x2FFD#64, dataLen := 10#64, mem := rampMem 0x2FFD 0x80 10 })
      (fun t => (t.ix, t.reads)) = some (0x89888786858483828180#128, [0x2FFD#64]) := by decide +kernel

theorem test_ldf_full :
    after (exec .ldf { busyAt 0x1B with dataAddr := 0x2000#64, dataLen := 21#64, ix := 0x9493929190#128,
                                        mem := rampMem 0x2000 0x80 21 }) (fun t => (t.ix, t.iz, t.reads)) =
      some (ramp 0x80, 0x9493929190#128, [0x2000#64]) := by decide +kernel

theorem test_ldf_short :
    after (exec .ldf { busyAt 0x1B with dataLen := 32#64, ix := 7#128, iz := 9#128 })
      (fun t => (t.ix, t.iz, t.reads, t.pc)) = some (7#128, 9#128, [], 0x1C#7) := by decide +kernel

theorem test_inj :
    after (exec .inj { busyAt 0x1C with ix := ramp 0, iz := ramp 16 }) (fun t => (t.iw, t.iy)) =
      some (0x0E0D0C0B0A090807060504030201001F#128, 0x001F1E1D1C1B1A191817161514131211#128) := by decide +kernel

theorem test_lenv :
    after (exec .lenv { busyAt 0x1E with dataLen := 0xFFFFFFFFFFFFFFFF#64, ix := 1#128 }) (fun t => (t.ix, t.iz)) =
      some (0#128, 0xFFFFFFFFFFFFFFFF#128) := by decide +kernel

theorem test_chk_counts :
    after (exec (.chk 0x36) { busyAt 0x33 with chcnt := 1#3 }) (fun t => (t.pc, t.chcnt)) = some (0x34#7, 0#3) := by
  decide +kernel

theorem test_chk_branches :
    after (exec (.chk 0x36) (busyAt 0x24)) (fun t => (t.pc, t.chcnt)) = some (0x36#7, 0#3) := by decide +kernel

theorem test_shuf :
    after (exec (.shuf 3 4 5 7 0 1) (rampLanes 0x39)) (fun t => (t.lane 0, t.lane 3, t.lane 4, t.lane 7)) =
      some (0x2E2C2A28262422201E1C1A1816141210#128, 0x0218D5BB4DD1E55279473B9B2D092B9C#128,
        0x010207040D0E0B08191A1F1C15161310#128, 0xCECCCAC8C6C4C2C0DEDCDAD8D6D4D2D0#128) := by decide +kernel

/-- `a = d`, `b = e`, `c = f`. -/
theorem test_shuf_equal_fields :
    after (exec (.shuf 0 1 2 0 1 2) (rampLanes 0)) (fun t => (t.lane 0, t.lane 1, t.lane 2)) =
      some (0xBBB073A6D1CDC1612F8526905AE63254#128, 0x42444A484A74727072746A686A646260#128, ramp 32) := by
  decide +kernel

theorem test_addq :
    after (exec (.addq 0 2) (rampLanes 0x42)) (·.lane 0) = some 0x3E3C3A38363432302E2C2A2826242220#128 := by
  decide +kernel

theorem test_addq_doubles :
    after (exec (.addq 7 7) (rampLanes 0x42)) (·.lane 7) = some 0xFEFCFAF8F6F4F2F0EEECEAE8E6E4E2E0#128 := by
  decide +kernel

theorem test_xorv :
    after (exec (.xorv 4 0) (rampLanes 0x47)) (·.lane 4) = some 0x40404040404040404040404040404040#128 := by
  decide +kernel

theorem test_xorv_clears : after (exec (.xorv 3 3) (rampLanes 0x47)) (·.lane 3) = some 0#128 := by decide +kernel

theorem test_fin :
    after (exec .fin { rampLanes 0x49 with dataLen := 5#64 })
      (fun t => (t.digest, t.statusWord, t.pc, t.lane 0, t.dataLen)) =
      some (ramp 0, 2#64, 0#7, 0#128, 5#64) := by decide +kernel

/-! ### Host commands (95 section 3.11) -/

theorem test_start_after_reset_is_rejected :
    after (hostAct (.write .ctrl 1#64) State.reset) (fun t => (t.statusWord, t.pc)) = some (0x14#64, 0#7) := by
  decide +kernel

/-- All 64 bits of `SEED_LEN` are compared. -/
theorem test_start_compares_all_bits :
    after (hostAct (.write .ctrl 1#64) { State.reset with seedLen := 0x100000080#64 }) (·.statusWord) = some 0x14#64 := by
  decide +kernel

theorem test_start_accepted :
    after (hostAct (.write .ctrl 3#64) { State.reset with err := true, errCode := 1#4, seedLen := 128#64,
                                                          dataAddr := 0x5003#64, dataLen := 300#64 })
      (fun t => (t.statusWord, t.ptr, t.blkcnt, t.chcnt)) = some (1#64, 0x5003#64, 1#56, 1#3) := by decide +kernel

theorem test_start_longest :
    after (hostAct (.write .ctrl 1#64) { State.reset with seedLen := 128#64, dataLen := 0xFFFFFFFFFFFFFFFF#64 })
      (fun t => (t.blkcnt, t.chcnt)) = some (0xFFFFFFFFFFFFFF#56, 7#3) := by decide +kernel

theorem test_clr :
    after (hostAct (.write .ctrl 2#64) { State.reset with done := true, digest := 9#128, dataLen := 5#64 })
      (fun t => (t.statusWord, t.digest, t.dataLen)) = some (0#64, 0#128, 5#64) := by decide +kernel

theorem test_reserved_ctrl_bits_ignored :
    after (hostAct (.write .ctrl 0xFFFFFFFFFFFFFFFC#64) { State.reset with done := true }) (·.done) = some true := by
  decide +kernel

theorem test_busy_ignores_writes :
    after (hostAct (.write .dataLen 99#64) (busyAt 3)) (·.dataLen) = some 0#64 ∧
    after (hostAct (.write .ctrl 2#64) (busyAt 3)) (·.busy) = some true := by decide +kernel

theorem test_rst_abandons_a_run :
    after (hostAct .rst { rampLanes 9 with mem := [(5, 1#8)] }) (fun t => (t.busy, t.lane 1, t.pc, t.mem)) =
      some (false, 0#128, 0#7, [(5, 1#8)]) := by decide +kernel

/-- Storing what an unlisted address reads as takes the entry out. -/
theorem test_store_canonical :
    after (hostAct (.store 5#64 0#8) { State.reset with mem := [(4, 1#8), (5, 2#8)] }) (·.mem) = some [(4, 1#8)] := by
  decide +kernel

/-! ### Witnesses: for every statement with hypotheses, a state that meets them -/

/-- An idle block with a wrong seed length. -/
def idle127 : State := { State.reset with seedLen := 127#64 }

/-- An idle block ready for a call of `len` bytes at the top of memory, the seed at address 0. -/
def ready (len : Quad) : State := { State.reset with seedLen := 128#64, dataAddr := 0#64 - len, dataLen := len }

/-- A run just started. -/
def running (len : Quad) : State := (ready len).launch

/-- A run at FIN. -/
def atFin : State := busyAt 0x49

theorem reset_cleared : State.reset.Cleared := ⟨by decide +kernel, rfl, rfl, rfl, rfl, rfl, rfl, rfl, rfl⟩

theorem witness_inv_idle : idle127.Inv ∧ idle127.busy = false ∧ idle127.seedLen ≠ 128#64 :=
  ⟨⟨rfl, rfl, rfl, by decide, by decide, by decide, rfl, fun _ => rfl,
    fun _ => ⟨reset_cleared.lanes, rfl, rfl, rfl, rfl, rfl, rfl, rfl, rfl⟩, by decide, by decide, by decide⟩,
    rfl, by decide⟩

/-- The hypotheses of the run statements: an empty input, and an input of 53 bytes that ends at
the last byte of the address space. -/
theorem witness_callReady :
    ({ ready 0#64 with script := startScript } : State).CallReady ∧
    ({ ready 53#64 with script := startScript } : State).CallReady ∧ (1#64).getLsbD 0 = true ∧
    0 < stepsOf 0 :=
  ⟨⟨⟨rfl, rfl, rfl, by decide, by decide, by decide, rfl, fun _ => rfl,
      fun _ => ⟨reset_cleared.lanes, rfl, rfl, rfl, rfl, rfl, rfl, rfl, rfl⟩, by decide, by decide, by decide⟩,
      rfl, rfl, by decide +kernel, by intro p hp; cases hp⟩,
    ⟨⟨rfl, rfl, rfl, by decide, by decide, by decide, rfl, fun _ => rfl,
      fun _ => ⟨reset_cleared.lanes, rfl, rfl, rfl, rfl, rfl, rfl, rfl, rfl⟩, by decide, by decide, by decide⟩,
      rfl, rfl, by decide +kernel, by intro p hp; cases hp⟩, by decide, by decide⟩

/-- A run in progress: the hypotheses of the statements about every step. -/
theorem witness_running :
    (running 53#64).Inv ∧ (running 53#64).busy = true ∧ (running 53#64).OnTrack ∧ (running 53#64).ownedReadable ∧
    (running 53#64).script = [] ∧ (∃ t, step (running 53#64) = .next t) ∧
    after (step (running 53#64)) (·.busy) = some true :=
  ⟨⟨rfl, rfl, rfl, by decide, by decide, by decide, rfl, fun _ => rfl, fun h => absurd h (by decide), by decide,
      fun _ => rfl, fun _ => by decide +kernel⟩,
    rfl,
    ⟨by decide +kernel, by decide +kernel, by decide +kernel, by decide +kernel, by decide +kernel,
      by decide +kernel, by decide +kernel, by decide +kernel⟩,
    by intro p hp; (cases hp), rfl, next_of_after (by decide +kernel), by decide +kernel⟩

/-- The last step of a run. -/
theorem witness_last_step :
    atFin.Inv ∧ atFin.busy = true ∧ atFin.OnTrack ∧ atFin.script = [] ∧ atFin.stepsLeft = 1 ∧
    (∃ t, step atFin = .next t) :=
  ⟨⟨rfl, rfl, rfl, by decide, by decide, by decide, rfl, fun _ => rfl, fun h => absurd h (by decide), by decide,
      fun _ => rfl, fun _ => by decide +kernel⟩,
    rfl,
    ⟨by decide +kernel, by decide +kernel, by decide +kernel, by decide +kernel, by decide +kernel,
      by decide +kernel, by decide +kernel, by decide +kernel⟩,
    rfl, by decide +kernel, next_of_after (by decide +kernel)⟩

/-- Encoding: a decoded word, a row and its word, an illegal word at `pc` of a busy block, a listed word
and the first and last words above the program. -/
theorem witness_encoding :
    decode 0xB003FFFF#32 = .ok (.shuf 7 7 7 7 7 7) ∧
    (⟨"FIN", 0xE0000000#32, 0xFFFFFFFF#32⟩ : OpcodeRow) ∈ opcodeRows ∧
    ((busyAt 0x4A).busy = true ∧ (busyAt 0x4A).script = [] ∧ legalWord (busyAt 0x4A).fetch = false) ∧
    listing[0]? = some (.seed 0) ∧ listing[73]? = some .fin ∧ 74 < 128 ∧ 74 ≤ 127 ∧ (127 : Nat) < 128 := by
  decide +kernel

/-- Datapath: a byte and its field inverse (0 is its own), a column of equal bytes, the ends of the
ranges of positions and counts. -/
theorem witness_datapath :
    gmul 0x53 0xCA = 1#8 ∧ gmul 0x01 0x01 = 1#8 ∧ (0#8 = 0#8) ∧
    (∀ r, r < 4 → aesCell 0x52525252#128 r 0 = 0x52#8) ∧ (∀ r, r < 4 → aesCell (0x07070707#128 <<< 96) r 3 = 0x07#8) ∧
    (0 < 16 ∧ 15 < 16 ∧ 16 ≤ 16) := by decide +kernel

/-- SEED and LDC: every clause, the window ending at the last readable byte and one byte beyond it. -/
theorem witness_reads :
    ({ busyAt 0 with seedAddr := 0xFF0#64, unreadable := [1] } : State).windowReadable 0xFF0#64 = true ∧
    ({ busyAt 0 with seedAddr := 0xFF1#64, unreadable := [1] } : State).windowReadable 0xFF1#64 = false ∧
    (let s : State := { busyAt 9 with ptr := 0xFE0#64, unreadable := [1] }
     s.windowReadable (s.ptr + 15#64) = true ∧ s.windowReadable s.ptr = true ∧
       s.windowReadable (s.ptr + 1#64) = true ∧ s.windowReadable (s.ptr + 16#64) = true) ∧
    (let s : State := { busyAt 9 with ptr := 0xFE2#64, unreadable := [1] }
     s.windowReadable (s.ptr + 15#64) = false) ∧
    (let s : State := { busyAt 9 with ptr := 0xFFF#64, unreadable := [0] }
     s.windowReadable (s.ptr + 15#64) = true ∧ s.windowReadable s.ptr = false) ∧
    (let s : State := { busyAt 9 with ptr := 0xFE1#64, unreadable := [1] }
     s.windowReadable (s.ptr + 15#64) = true ∧ s.windowReadable s.ptr = true ∧
       s.windowReadable (s.ptr + 1#64) = true ∧ s.windowReadable (s.ptr + 16#64) = false) := by decide +kernel

/-- BLK, CHK, LDP, LDF: both branches of each condition, and the unreadable window. -/
theorem witness_branches :
    (busyAt 8).blkcnt = 0#56 ∧ ({ busyAt 8 with blkcnt := 1#56 } : State).blkcnt ≠ 0#56 ∧
    (busyAt 0x21).chcnt = 0#3 ∧ ({ busyAt 0x21 with chcnt := 1#3 } : State).chcnt ≠ 0#3 ∧
    (32#64).toNat % 16 = 0 ∧ (5#64).toNat % 16 ≠ 0 ∧ (16#64).getLsbD 4 = true ∧ (15#64).getLsbD 4 = false ∧
    (let s : State := { busyAt 0x1A with dataAddr := 0x2FFB#64, dataLen := 5#64, unreadable := [3] }
     s.windowReadable (partialAddr s.dataAddr s.dataLen) = true) ∧
    (let s : State := { busyAt 0x1A with dataAddr := 0x2FFB#64, dataLen := 5#64, unreadable := [2] }
     s.windowReadable (partialAddr s.dataAddr s.dataLen) = false) ∧
    (let s : State := { busyAt 0x1B with dataAddr := 0x2FF0#64, dataLen := 16#64, unreadable := [3] }
     s.dataLen.getLsbD 4 = true ∧ s.windowReadable (lastAddr s.dataAddr s.dataLen - 16#64) = true) ∧
    (let s : State := { busyAt 0x1B with dataAddr := 0x2FF0#64, dataLen := 16#64, unreadable := [2] }
     s.dataLen.getLsbD 4 = true ∧ s.windowReadable (lastAddr s.dataAddr s.dataLen - 16#64) = false) := by
  decide +kernel

/-- Distinct lanes, and equal ones. -/
theorem witness_lanes :
    [(0 : LaneNo), 4, 6, 1, 2].Nodup ∧ [(7 : LaneNo), 0, 1, 3, 4, 5].Nodup ∧ (3 : LaneNo) = 3 := by decide

/-- Micro-operations that answer a next state: an inner one and FIN. -/
theorem witness_exec_next :
    (∃ t, exec .ldc (busyAt 9) = .next t) ∧ (∃ t, exec .fin (rampLanes 0x49) = .next t) ∧ Instr.ldc ≠ .fin :=
  ⟨next_of_after (by decide +kernel), next_of_after (by decide +kernel), by decide⟩

/-- Two states that differ in lanes, injection registers and memory only, where the sequencer's turn
goes on, faults, and is refused. -/
theorem witness_sameControl :
    SameControl (busyAt 9) { rampLanes 9 with ix := 5#128, mem := [(7, 1#8)] } ∧
    (∃ t, sequencerTurn (busyAt 9) = .next t) ∧
    SameControl { busyAt 9 with unreadable := [0] } { rampLanes 9 with unreadable := [0] } ∧
    faultOf (sequencerTurn { busyAt 9 with unreadable := [0] }) = some (.unreadable 15#64) ∧
    SameControl (busyAt 0x4A) (rampLanes 0x4A) ∧
    refusalOf (sequencerTurn (busyAt 0x4A)) = some (.illegalWord 0#32) :=
  ⟨⟨rfl, rfl, ⟨rfl, rfl, rfl⟩, rfl, rfl, rfl, rfl, rfl, rfl, rfl⟩, next_of_after (by decide +kernel),
    ⟨rfl, rfl, ⟨rfl, rfl, rfl⟩, rfl, rfl, rfl, rfl, rfl, rfl, rfl⟩, by decide +kernel,
    ⟨rfl, rfl, ⟨rfl, rfl, rfl⟩, rfl, rfl, rfl, rfl, rfl, rfl, rfl⟩, by decide +kernel⟩

/-- The step rule: a busy block with its word legal, nothing scripted or the sequencer's turn; a host
action scripted; an idle block with either script. -/
theorem witness_step :
    ((busyAt 0x19).busy = true ∧ decode (busyAt 0x19).fetch = .ok (.jmp 0x08) ∧ (busyAt 0x19).script = []) ∧
    (let s : State := { busyAt 0x19 with script := [.sequencer] }
     s.busy = true ∧ decode s.fetch = .ok (.jmp 0x08) ∧ s.script = .sequencer :: []) ∧
    (let s : State := { State.reset with script := startScript }
     s.script = .host (.write .ctrl 1#64) :: []) ∧
    (State.reset.busy = false ∧ State.reset.script = []) ∧
    (let s : State := { State.reset with script := [.sequencer] }
     s.busy = false ∧ s.script = .sequencer :: []) := by decide +kernel

/-- START: ignored, rejected, accepted at the last addresses that fit, and refused one beyond them. -/
theorem witness_start :
    (1#64).getLsbD 0 = true ∧ (3#64).getLsbD 0 = true ∧ (busyAt 3).busy = true ∧
    (idle127.busy = false ∧ idle127.seedLen ≠ 128#64) ∧
    (let s : State := { ready 53#64 with seedAddr := 0xFFFFFFFFFFFFFF80#64 }
     s.busy = false ∧ s.seedLen = 128#64 ∧ s.seedAddr.toNat + 128 ≤ 2 ^ 64 ∧
       s.dataAddr.toNat + s.dataLen.toNat ≤ 2 ^ 64) ∧
    (let s : State := { ready 53#64 with seedAddr := 0xFFFFFFFFFFFFFF81#64 }
     s.busy = false ∧ s.seedLen = 128#64 ∧
       ¬(s.seedAddr.toNat + 128 ≤ 2 ^ 64 ∧ s.dataAddr.toNat + s.dataLen.toNat ≤ 2 ^ 64)) ∧
    (let s : State := { ready 53#64 with dataLen := 54#64 }
     s.busy = false ∧ s.seedLen = 128#64 ∧
       ¬(s.seedAddr.toNat + 128 ≤ 2 ^ 64 ∧ s.dataAddr.toNat + s.dataLen.toNat ≤ 2 ^ 64)) ∧
    (let s : State := { idle127 with seedAddr := 0xFFFFFFFFFFFFFF81#64 }
     s.busy = false ∧ s.seedLen ≠ 128#64 ∧
       ¬(s.seedAddr.toNat + 128 ≤ 2 ^ 64 ∧ s.dataAddr.toNat + s.dataLen.toNat ≤ 2 ^ 64)) := by decide +kernel

/-- CLR and the other values of `CTRL`, busy and idle. -/
theorem witness_ctrl :
    ((2#64).getLsbD 0 = false ∧ (2#64).getLsbD 1 = true) ∧ ((4#64).getLsbD 0 = false ∧ (4#64).getLsbD 1 = false) ∧
    (busyAt 3).busy = true ∧ State.reset.busy = false := by decide +kernel

/-- A store: refused at the last byte of the last page the seed stands on, allowed at the first byte of
the next page, where it changes nothing, and in an idle block. -/
theorem witness_store :
    (let s : State := { busyAt 3 with seedAddr := 0xF81#64, mem := rampMem 0x1FFF 1 1 }
     Memory.wf s.mem = true ∧
       (s.busy = true ∧ s.ownsPage ((0x1FFF#64).toNat / 4096) = true ∧ s.byteAt 0x1FFF#64 ≠ 2#8) ∧
       ¬(s.busy = true ∧ s.ownsPage ((0x2000#64).toNat / 4096) = true ∧ s.byteAt 0x2000#64 ≠ 2#8) ∧
       ¬(s.busy = true ∧ s.ownsPage ((0x1FFF#64).toNat / 4096) = true ∧ s.byteAt 0x1FFF#64 ≠ 1#8)) ∧
    State.reset.busy = false := by decide +kernel

/-- The partial read: a shifted window, and one that ends at the last byte of the address space. -/
theorem witness_partial :
    ((5#64).toNat % 16 ≠ 0 ∧ (0x2FFB#64).toNat + (5#64).toNat ≤ 2 ^ 64) ∧
    ((15#64).toNat % 16 ≠ 0 ∧ (0xFFFFFFFFFFFFFFF1#64).toNat + (15#64).toNat ≤ 2 ^ 64) := by decide +kernel

/-- The phases answer a next state on an input of 53 bytes. -/
theorem witness_phases :
    ((running 53#64).dataAddr.toNat + (running 53#64).dataLen.toNat ≤ 2 ^ 64) ∧
    (∃ t, exec .ldp (running 53#64) = .next t) ∧ (∃ t, execAll [.ldp, .ldf] (running 53#64) = .next t) ∧
    (∀ i, i < 8 → (running 53#64).windowReadable ((running 53#64).seedAddr + BitVec.ofNat 64 (16 * i)) = true) ∧
    (∃ t, execAll ([0, 1, 2, 3, 4, 5, 6, 7].flatMap mixmQ) (busyAt 9) = .next t) ∧
    (∃ t, execAll ([.ldp, .ldf] ++ mixrQ 0 ++ [.lenv] ++ mixrQ 1) (running 53#64) = .next t) :=
  ⟨by decide +kernel, next_of_after (by decide +kernel), next_of_after (by decide +kernel), by decide +kernel,
    next_of_after (by decide +kernel), next_of_after (by decide +kernel)⟩

/-- Two seeds and two inputs of three bytes that agree where they count and differ beyond. -/
theorem witness_hash :
    (∀ k, k < 128 → (if k < 128 then 1#8 else 2#8) = 1#8) ∧ (∀ k, k < 3 → (if k < 3 then 5#8 else 6#8) = 5#8) ∧
    (if 128 < 128 then 1#8 else 2#8) ≠ 1#8 ∧ (if 3 < 3 then 5#8 else 6#8) ≠ 5#8 := by decide

end Sys2Proof.Tests
end

