-- ==== Sys2Proof/Proofs/State.lean ====
section
/-! PROOFS. The host's writes to a busy block, its reads, and reset (10_state.md R37, R40, R281). -/

namespace Sys2Proof.Machine

/-! ### The host's actions as named updates -/

theorem hostAct_write (r : HostReg) (v : Quad) (s : State) : hostAct (.write r v) s = hostWrite r v s := rfl

theorem hostAct_read (r : HostReg) (s : State) :
    hostAct (.read r) s = .next (s.noteAnswer r (hostRead r s)) := rfl

theorem hostAct_rst (s : State) : hostAct .rst s = .next s.afterRst := rfl

/-- Taking the answer back off the record gives the state before the read: a read does nothing else. -/
theorem State.noteAnswer_restore (s : State) (r : HostReg) (v : Quad) :
    { s.noteAnswer r v with answers := s.answers } = s := rfl

/-! ### Reset -/

theorem State.afterRst_cleared (s : State) : s.afterRst.Cleared where
  lanes := s.afterRst_lane
  pc := s.afterRst_pc
  iw := s.afterRst_iw
  ix := s.afterRst_ix
  iy := s.afterRst_iy
  iz := s.afterRst_iz
  ptr := s.afterRst_ptr
  blkcnt := s.afterRst_blkcnt
  chcnt := s.afterRst_chcnt

@[simp] theorem State.afterRst_doneOut (s : State) : s.afterRst.doneOut = false := s.afterRst_done

/-- The initial state is a fixed point of `rst`, so what `rst` gives in every state holds of it. -/
theorem State.reset_afterRst : State.reset.afterRst = State.reset := rfl

theorem State.reset_cleared : State.reset.Cleared := by
  rw [← State.reset_afterRst]
  exact State.reset.afterRst_cleared

/-! ### The obligations -/

/-- Settles O40: a busy block ignores the write before it looks at the register, and a read only appends
its answer to the model's record. -/
theorem hostWritesAreIgnoredWhileBusy : Obligations.HostWritesAreIgnoredWhileBusy := by
  refine ⟨fun s r v hbusy => ?_, fun s r => ⟨s.noteAnswer r (hostRead r s), hostAct_read r s, ?_⟩⟩
  · rw [hostAct_write, hostWrite_busy hbusy]
  · exact s.noteAnswer_restore r (hostRead r s)

/-- Settles O43, through the effect of `rst` on an arbitrary state: the initial state is one that `rst`
leaves as it is. -/
theorem resetLeavesZeroEverywhere : Obligations.ResetLeavesZeroEverywhere := by
  refine ⟨⟨State.reset_cleared, ?_⟩, fun s => ⟨s.afterRst, hostAct_rst s, s.afterRst_cleared, ?_⟩⟩
  · rw [← State.reset_afterRst]
    simp
  · simp

end Sys2Proof.Machine
end

section
/-! PROOFS. The bytes of a read window (20_memory.md R50). -/

namespace Sys2Proof.Machine

/-- Byte `i` of the value read at `addr`; the quadword addition wraps at the end of the address space. -/
theorem byteOf_window (s : State) (addr : Quad) {i : Nat} (hi : i < 16) :
    byteOf (s.window addr) i = s.byteAt (addr + BitVec.ofNat 64 i) :=
  byteOf_ofBytes (fun j => s.byteAt (addr + BitVec.ofNat 64 j)) hi

/-- Settles O6: bits `8i+7 : 8i` are byte `i` in the numbering of R9, and a window is built from its bytes. -/
theorem readBytesAreLittleEndian : Obligations.ReadBytesAreLittleEndian :=
  fun s addr _ hi => byteOf_window s addr hi

end Sys2Proof.Machine
end

section
/-!
PROOFS. The decoder and the encoder against each other and against the opcode map (30_encoding.md R82,
R85, R86). The idea: a word is its opcode, its reserved bits and its operand bits side by side, a row's
mask leaves out just the operand bits, and the operand bits are the lane fields side by side.
-/

namespace Sys2Proof

/-! ### Fields of a word -/

theorem getLsbD_putField {n : Nat} (v : BitVec n) (lo k : Nat) :
    (putField v lo).getLsbD k = (decide (k < 32) && decide (lo ≤ k) && v.getLsbD (k - lo)) := by
  rw [putField, BitVec.getLsbD_shiftLeft, BitVec.getLsbD_setWidth]
  by_cases hk : k < 32
  · simp only [hk, show k - lo < 32 by omega, decide_true, Bool.true_and, ← decide_not, Nat.not_lt]
  · simp [hk]

/-- A field is read back where it was put. -/
@[simp] theorem extractLsb'_putField_same {n : Nat} (v : BitVec n) {lo : Nat} (h : lo + n ≤ 32) :
    (putField v lo).extractLsb' lo n = v := by
  apply BitVec.eq_of_getLsbD_eq
  intro k hk
  rw [BitVec.getLsbD_extractLsb', getLsbD_putField]
  simp only [hk, show lo + k < 32 by omega, Nat.le_add_right, Nat.add_sub_cancel_left, decide_true, Bool.true_and]

/-- A field leaves the bits below it 0. -/
@[simp] theorem extractLsb'_putField_below {n m : Nat} (v : BitVec n) {lo pos : Nat} (h : pos + m ≤ lo) :
    (putField v lo).extractLsb' pos m = 0#m := by
  apply BitVec.eq_of_getLsbD_eq
  intro k hk
  simp [getLsbD_putField, show ¬ lo ≤ pos + k by omega]

/-- A field leaves the bits above it 0. -/
@[simp] theorem extractLsb'_putField_above {n m : Nat} (v : BitVec n) {lo pos : Nat} (h : lo + n ≤ pos) :
    (putField v lo).extractLsb' pos m = 0#m := by
  apply BitVec.eq_of_getLsbD_eq
  intro k hk
  simp [getLsbD_putField, BitVec.getLsbD_of_ge v (pos + k - lo) (by omega)]

/-- Two adjacent fields of a word make one longer field. -/
theorem putField_adjacent (w : UopWord) (lo m n : Nat) :
    putField (w.extractLsb' (lo + m) n) (lo + m) ||| putField (w.extractLsb' lo m) lo =
      putField (w.extractLsb' lo (m + n)) lo := by
  apply BitVec.eq_of_getLsbD_eq
  intro k hk
  simp only [BitVec.getLsbD_or, getLsbD_putField, BitVec.getLsbD_extractLsb', hk]
  by_cases hlo : lo ≤ k
  · by_cases hm : lo + m ≤ k
    · simp [hlo, hm, show ¬ k - lo < m by omega, show lo + m + (k - (lo + m)) = k by omega,
        show lo + (k - lo) = k by omega, show k - (lo + m) < n ↔ k - lo < m + n by omega]
    · simp [hlo, hm, show k - lo < m by omega, show k - lo < m + n by omega]
  · simp [hlo, show ¬ lo + m ≤ k by omega]

/-- A lane field on top of the operand bits below it. -/
theorem putField_lane_low (w : UopWord) (n : Nat) :
    putField (laneField w n) n ||| putField (w.extractLsb' 0 n) 0 = putField (w.extractLsb' 0 (n + 3)) 0 := by
  simpa [laneField] using putField_adjacent w 0 n 3

/-- A word is its opcode, its reserved bits and its operand bits (R80, R81). -/
theorem word_eq_fields (w : UopWord) {n : Nat} (hn : n ≤ 28) :
    w = putField (opField w) 28 ||| putField (reservedField w n) n ||| putField (w.extractLsb' 0 n) 0 := by
  have hlow := putField_adjacent w 0 n (28 - n)
  have hall := putField_adjacent w 0 28 4
  rw [Nat.zero_add, show n + (28 - n) = 28 by omega] at hlow
  rw [BitVec.or_assoc, reservedField, hlow, opField]
  refine Eq.trans ?_ hall.symm
  simp [putField]

/-! ### Masks -/

/-- The mask of a format whose operand fields fill bits `n-1:0` (R82). -/
def formatMask (n : Nat) : UopWord := BitVec.allOnes 32 <<< n

/-- A format's mask leaves the opcode and the reserved bits of a word and clears its operand bits. -/
theorem and_formatMask (w : UopWord) {n : Nat} (hn : n ≤ 28) :
    w &&& formatMask n = putField (opField w) 28 ||| putField (reservedField w n) n := by
  have htop := putField_adjacent w n (28 - n) 4
  rw [show n + (28 - n) = 28 by omega] at htop
  rw [opField, reservedField, htop]
  apply BitVec.eq_of_getLsbD_eq
  intro k hk
  rw [formatMask, BitVec.getLsbD_and, BitVec.getLsbD_shiftLeft, BitVec.getLsbD_allOnes, getLsbD_putField,
    BitVec.getLsbD_extractLsb']
  by_cases hkn : n ≤ k
  · simp [hk, hkn, show ¬ k < n by omega, show k - n < 32 by omega, show k - n < 28 - n + 4 by omega,
      show n + (k - n) = k by omega]
  · simp [hkn, show k < n by omega]

@[simp] theorem putField_zero (n lo : Nat) : putField 0#n lo = 0#32 := by
  simp [putField]

theorem putField_eq_zero_iff {n : Nat} (v : BitVec n) {lo : Nat} (h : lo + n ≤ 32) :
    putField v lo = 0#32 ↔ v = 0 := by
  constructor
  · intro hv
    rw [← extractLsb'_putField_same v h, hv]
    simp
  · rintro rfl
    exact putField_zero n lo

/-- A mask test compares the opcode and requires the reserved bits to be 0. -/
theorem and_formatMask_eq_iff (w : UopWord) (op : BitVec 4) {n : Nat} (hn : n ≤ 28) :
    w &&& formatMask n = putField op 28 ↔ opField w = op ∧ reservedField w n = 0 := by
  rw [and_formatMask w hn]
  constructor
  · intro h
    have hop := congrArg (BitVec.extractLsb' 28 4) h
    have hres := congrArg (BitVec.extractLsb' n (28 - n)) h
    have hn' : n + (28 - n) ≤ 28 := by omega
    rw [BitVec.extractLsb'_or, extractLsb'_putField_same _ (by omega), extractLsb'_putField_above _ hn',
      extractLsb'_putField_same _ (by omega)] at hop
    rw [BitVec.extractLsb'_or, extractLsb'_putField_below _ hn', extractLsb'_putField_same _ (by omega),
      extractLsb'_putField_below _ hn'] at hres
    exact ⟨by simpa using hop, by simpa using hres⟩
  · rintro ⟨rfl, hres⟩
    simp [hres]

/-- Below the opcode, a format's mask leaves the reserved bits. -/
theorem and_formatMask_and_low (w : UopWord) {n : Nat} (hn : n ≤ 28) :
    w &&& formatMask n &&& 0x0FFFFFFF#32 = putField (reservedField w n) n := by
  have hlow : (0x0FFFFFFF#32) = putField (BitVec.allOnes 28) 0 := by decide
  rw [and_formatMask w hn, hlow]
  apply BitVec.eq_of_getLsbD_eq
  intro k hk
  simp only [BitVec.getLsbD_and, BitVec.getLsbD_or, getLsbD_putField, BitVec.getLsbD_allOnes, hk]
  by_cases h28 : k < 28
  · simp [h28, show ¬ 28 ≤ k by omega]
  · simp [h28, BitVec.getLsbD_of_ge (reservedField w n) (k - n) (by omega)]

/-! ### The decoder, case by case (R86) -/

theorem ifReservedZero_of_zero {w : UopWord} {n : Nat} (i : Instr) (h : reservedField w n = 0) :
    ifReservedZero w n i = .ok i := if_pos h

theorem ifReservedZero_eq_ok_iff (w : UopWord) (n : Nat) (i j : Instr) :
    ifReservedZero w n i = .ok j ↔ reservedField w n = 0 ∧ i = j := by
  unfold ifReservedZero
  split
  next h => simp [h]
  next h => exact iff_of_false (by simp) (fun h' => h h'.1)

theorem ifReservedZero_eq_reservedBit_iff (w : UopWord) (n : Nat) (i : Instr) :
    ifReservedZero w n i = .error .reservedBit ↔ reservedField w n ≠ 0 := by
  unfold ifReservedZero
  split
  next h => simp [h]
  next h => exact iff_of_true rfl h

theorem ifReservedZero_ne_opcode (w : UopWord) (n : Nat) (i : Instr) :
    ifReservedZero w n i ≠ .error .opcode := by
  unfold ifReservedZero
  split <;> simp

/-- The reserved bits are 0 when they are 0 as a number. -/
theorem ifReservedZero_eq_toNat (w : UopWord) (n : Nat) (i : Instr) :
    ifReservedZero w n i = if (w.extractLsb' n (28 - n)).toNat = 0 then .ok i else .error .reservedBit :=
  if_congr BitVec.toNat_eq rfl rfl

section Decode
variable {w : UopWord}

theorem decode_seed (h : opField w = 0x1#4) : decode w = ifReservedZero w 3 (.seed (laneField w 0)) := by
  simp [decode, h]

theorem decode_blk (h : opField w = 0x2#4) : decode w = ifReservedZero w 7 (.blk (targetField w)) := by
  simp [decode, h]

theorem decode_ldc (h : opField w = 0x3#4) : decode w = ifReservedZero w 0 .ldc := by
  simp [decode, h]

theorem decode_mix (h : opField w = 0x4#4) :
    decode w = ifReservedZero w 15 (.mix (laneField w 0) (laneField w 3) (laneField w 6) (laneField w 9)
      (laneField w 12)) := by
  simp [decode, h]

theorem decode_jmp (h : opField w = 0x5#4) : decode w = ifReservedZero w 7 (.jmp (targetField w)) := by
  simp [decode, h]

theorem decode_ldp (h : opField w = 0x6#4) : decode w = ifReservedZero w 0 .ldp := by
  simp [decode, h]

theorem decode_ldf (h : opField w = 0x7#4) : decode w = ifReservedZero w 0 .ldf := by
  simp [decode, h]

theorem decode_inj (h : opField w = 0x8#4) : decode w = ifReservedZero w 0 .inj := by
  simp [decode, h]

theorem decode_lenv (h : opField w = 0x9#4) : decode w = ifReservedZero w 0 .lenv := by
  simp [decode, h]

theorem decode_chk (h : opField w = 0xA#4) : decode w = ifReservedZero w 7 (.chk (targetField w)) := by
  simp [decode, h]

theorem decode_shuf (h : opField w = 0xB#4) :
    decode w = ifReservedZero w 18 (.shuf (laneField w 0) (laneField w 3) (laneField w 6) (laneField w 9)
      (laneField w 12) (laneField w 15)) := by
  simp [decode, h]

theorem decode_addq (h : opField w = 0xC#4) :
    decode w = ifReservedZero w 6 (.addq (laneField w 0) (laneField w 3)) := by
  simp [decode, h]

theorem decode_xorv (h : opField w = 0xD#4) :
    decode w = ifReservedZero w 6 (.xorv (laneField w 0) (laneField w 3)) := by
  simp [decode, h]

theorem decode_fin (h : opField w = 0xE#4) : decode w = ifReservedZero w 0 .fin := by
  simp [decode, h]

theorem decode_noRow (h : opField w = 0x0#4 ∨ opField w = 0xF#4) : decode w = .error .opcode := by
  rcases h with h | h <;> simp [decode, h]

end Decode

/-! ### The operand bits of an encoded term -/

/-- A format without operands has no operand bits to write. -/
theorem or_putField_empty (p w : UopWord) : p = p ||| putField (w.extractLsb' 0 0) 0 := by
  simp

theorem putField_twoLanes (w : UopWord) :
    putField (laneField w 3) 3 ||| putField (laneField w 0) 0 = putField (w.extractLsb' 0 6) 0 :=
  putField_lane_low w 3

theorem putField_fiveLanes (w : UopWord) :
    putField (laneField w 12) 12 ||| (putField (laneField w 9) 9 ||| (putField (laneField w 6) 6 |||
      (putField (laneField w 3) 3 ||| putField (laneField w 0) 0))) = putField (w.extractLsb' 0 15) 0 := by
  rw [putField_twoLanes, putField_lane_low w 6, putField_lane_low w 9, putField_lane_low w 12]

theorem putField_sixLanes (w : UopWord) :
    putField (laneField w 15) 15 ||| (putField (laneField w 12) 12 ||| (putField (laneField w 9) 9 |||
      (putField (laneField w 6) 6 ||| (putField (laneField w 3) 3 ||| putField (laneField w 0) 0)))) =
        putField (w.extractLsb' 0 18) 0 := by
  rw [putField_fiveLanes, putField_lane_low w 15]

/-! ### The opcode map (R82) -/

/-- The opcode of a row, the top four bits of its match. -/
def OpcodeRow.opcode (r : OpcodeRow) : BitVec 4 := r.pattern.extractLsb' 28 4

/-- The row `r` reads a word `w` that has its opcode as the term `i`, of a format with `n` operand bits. -/
structure OpcodeRow.Reads (r : OpcodeRow) (w : UopWord) (n : Nat) (i : Instr) : Prop where
  bits : n ≤ 28
  mask : r.mask = formatMask n
  pattern : r.pattern = putField r.opcode 28
  mnemonic : i.mnemonic = r.mnemonic
  encode_eq : encode i = r.pattern ||| putField (w.extractLsb' 0 n) 0
  decode_eq : decode w = ifReservedZero w n i

/-- Each row reads the words with its opcode. -/
theorem OpcodeRow.exists_reads {r : OpcodeRow} (hr : r ∈ opcodeRows) {w : UopWord} (hw : opField w = r.opcode) :
    ∃ n i, r.Reads w n i := by
  simp only [opcodeRows, List.mem_cons, List.not_mem_nil, or_false] at hr
  rcases hr with rfl | rfl | rfl | rfl | rfl | rfl | rfl | rfl | rfl | rfl | rfl | rfl | rfl | rfl
  · exact ⟨_, _, by decide, rfl, rfl, rfl, rfl, decode_seed hw⟩
  · exact ⟨_, _, by decide, rfl, rfl, rfl, rfl, decode_blk hw⟩
  · exact ⟨_, _, by decide, rfl, rfl, rfl, or_putField_empty _ w, decode_ldc hw⟩
  · exact ⟨_, _, by decide, rfl, rfl, rfl,
      by simp only [encode, BitVec.or_assoc, putField_fiveLanes], decode_mix hw⟩
  · exact ⟨_, _, by decide, rfl, rfl, rfl, rfl, decode_jmp hw⟩
  · exact ⟨_, _, by decide, rfl, rfl, rfl, or_putField_empty _ w, decode_ldp hw⟩
  · exact ⟨_, _, by decide, rfl, rfl, rfl, or_putField_empty _ w, decode_ldf hw⟩
  · exact ⟨_, _, by decide, rfl, rfl, rfl, or_putField_empty _ w, decode_inj hw⟩
  · exact ⟨_, _, by decide, rfl, rfl, rfl, or_putField_empty _ w, decode_lenv hw⟩
  · exact ⟨_, _, by decide, rfl, rfl, rfl, rfl, decode_chk hw⟩
  · exact ⟨_, _, by decide, rfl, rfl, rfl,
      by simp only [encode, BitVec.or_assoc, putField_sixLanes], decode_shuf hw⟩
  · exact ⟨_, _, by decide, rfl, rfl, rfl,
      by simp only [encode, BitVec.or_assoc, putField_twoLanes], decode_addq hw⟩
  · exact ⟨_, _, by decide, rfl, rfl, rfl,
      by simp only [encode, BitVec.or_assoc, putField_twoLanes], decode_xorv hw⟩
  · exact ⟨_, _, by decide, rfl, rfl, rfl, or_putField_empty _ w, decode_fin hw⟩

theorem exists_row_of_opcode (op : BitVec 4) : (op = 0x0#4 ∨ op = 0xF#4) ∨ ∃ r ∈ opcodeRows, op = r.opcode := by
  revert op
  decide

theorem OpcodeRow.opcode_injective {r q : OpcodeRow} (hr : r ∈ opcodeRows) (hq : q ∈ opcodeRows)
    (h : r.opcode = q.opcode) : r = q :=
  List.inj_on_of_nodup_map (f := OpcodeRow.opcode) (by decide) hr hq h

theorem OpcodeRow.mnemonic_injective {r q : OpcodeRow} (hr : r ∈ opcodeRows) (hq : q ∈ opcodeRows)
    (h : r.mnemonic = q.mnemonic) : r = q :=
  List.inj_on_of_nodup_map (f := OpcodeRow.mnemonic) (by decide) hr hq h

/-- What the decoder can do with a word: no row has its opcode, or one row reads it. -/
theorem decode_cases (w : UopWord) :
    ((opField w = 0x0#4 ∨ opField w = 0xF#4) ∧ decode w = .error .opcode) ∨
    ∃ r ∈ opcodeRows, opField w = r.opcode ∧ ∃ n i, r.Reads w n i := by
  rcases exists_row_of_opcode (opField w) with h | ⟨r, hr, h⟩
  · exact .inl ⟨h, decode_noRow h⟩
  · exact .inr ⟨r, hr, h, OpcodeRow.exists_reads hr h⟩

/-- The mask test of a row of known format. -/
theorem OpcodeRow.Reads.and_mask_eq_iff {r : OpcodeRow} {w₀ : UopWord} {n : Nat} {i : Instr}
    (hread : r.Reads w₀ n i) (w : UopWord) :
    w &&& r.mask = r.pattern ↔ opField w = r.opcode ∧ reservedField w n = 0 := by
  rw [hread.mask, hread.pattern]
  exact and_formatMask_eq_iff w r.opcode hread.bits

/-- A word that passes a row's mask test has the row's opcode. -/
theorem OpcodeRow.opField_eq {r : OpcodeRow} (hr : r ∈ opcodeRows) {w : UopWord} (h : w &&& r.mask = r.pattern) :
    opField w = r.opcode := by
  obtain ⟨n, i, hread⟩ := OpcodeRow.exists_reads hr (w := r.pattern) rfl
  exact ((hread.and_mask_eq_iff w).1 h).1

/-- A word belongs to a row exactly when it decodes to a term with the row's mnemonic (R82). -/
theorem OpcodeRow.and_mask_eq_iff_decode {r : OpcodeRow} (hr : r ∈ opcodeRows) (w : UopWord) :
    w &&& r.mask = r.pattern ↔ ∃ i, decode w = .ok i ∧ i.mnemonic = r.mnemonic := by
  constructor
  · intro h
    obtain ⟨n, i, hread⟩ := OpcodeRow.exists_reads hr (OpcodeRow.opField_eq hr h)
    have hzero := ((hread.and_mask_eq_iff w).1 h).2
    exact ⟨i, hread.decode_eq.trans (ifReservedZero_of_zero i hzero), hread.mnemonic⟩
  · rintro ⟨j, hj, hname⟩
    rcases decode_cases w with ⟨-, herr⟩ | ⟨q, hq, hop, n, i, hread⟩
    · rw [herr] at hj
      cases hj
    · rw [hread.decode_eq, ifReservedZero_eq_ok_iff] at hj
      obtain ⟨hzero, rfl⟩ := hj
      have hqr : q = r := OpcodeRow.mnemonic_injective hq hr (hread.mnemonic.symm.trans hname)
      rw [← hqr]
      exact (hread.and_mask_eq_iff w).2 ⟨hop, hzero⟩

/-- A term has the mnemonic of some row. -/
theorem exists_row_of_mnemonic (i : Instr) : ∃ r ∈ opcodeRows, i.mnemonic = r.mnemonic := by
  cases i <;> simp [opcodeRows, Instr.mnemonic]

theorem legalWord_iff (w : UopWord) : legalWord w = true ↔ ∃ i, decode w = .ok i := by
  simp only [legalWord, List.any_eq_true, OpcodeRow.accepts, beq_iff_eq]
  constructor
  · rintro ⟨r, hr, h⟩
    obtain ⟨i, hi, -⟩ := (OpcodeRow.and_mask_eq_iff_decode hr w).1 h
    exact ⟨i, hi⟩
  · rintro ⟨i, hi⟩
    obtain ⟨r, hr, hname⟩ := exists_row_of_mnemonic i
    exact ⟨r, hr, (OpcodeRow.and_mask_eq_iff_decode hr w).2 ⟨i, hi, hname⟩⟩

theorem legalWord_eq_false_iff (w : UopWord) : legalWord w = false ↔ ∃ e, decode w = .error e := by
  rw [← Bool.not_eq_true, legalWord_iff]
  cases decode w <;> simp

/-! ### The two reasons of R85 -/

theorem decode_eq_opcode_iff (w : UopWord) :
    decode w = .error .opcode ↔ opField w = 0x0#4 ∨ opField w = 0xF#4 := by
  refine ⟨fun h => ?_, decode_noRow⟩
  rcases decode_cases w with ⟨hop, -⟩ | ⟨r, -, -, n, i, hread⟩
  · exact hop
  · exact absurd (hread.decode_eq.symm.trans h) (ifReservedZero_ne_opcode w n i)

/-- A row of known format sees a 1 below the opcode exactly when the word decodes to "reserved bit". -/
theorem OpcodeRow.Reads.decode_eq_reservedBit_iff {r : OpcodeRow} {w : UopWord} {n : Nat} {i : Instr}
    (hread : r.Reads w n i) :
    decode w = .error .reservedBit ↔ w &&& r.mask &&& 0x0FFFFFFF#32 ≠ 0#32 := by
  have hbits := hread.bits
  rw [hread.decode_eq, ifReservedZero_eq_reservedBit_iff, hread.mask, and_formatMask_and_low w hbits, ne_eq, ne_eq,
    putField_eq_zero_iff _ (by omega)]

theorem decode_eq_reservedBit_iff (w : UopWord) :
    decode w = .error .reservedBit ↔
      ∃ r ∈ opcodeRows, opField w = r.opcode ∧ w &&& r.mask &&& 0x0FFFFFFF#32 ≠ 0#32 := by
  constructor
  · intro h
    rcases decode_cases w with ⟨-, herr⟩ | ⟨r, hr, hop, n, i, hread⟩
    · rw [herr] at h
      cases h
    · exact ⟨r, hr, hop, hread.decode_eq_reservedBit_iff.1 h⟩
  · rintro ⟨r, hr, hop, hbit⟩
    obtain ⟨n, i, hread⟩ := OpcodeRow.exists_reads hr hop
    exact hread.decode_eq_reservedBit_iff.2 hbit

/-! ### The round trips (R86) -/

/-- A word that decodes is its opcode and its operand bits, and those are what the encoder writes. -/
theorem encode_of_decode {w : UopWord} {i : Instr} (h : decode w = .ok i) : encode i = w := by
  rcases decode_cases w with ⟨-, herr⟩ | ⟨r, -, hop, n, j, hread⟩
  · rw [herr] at h
    cases h
  · rw [hread.decode_eq, ifReservedZero_eq_ok_iff] at h
    obtain ⟨hzero, rfl⟩ := h
    calc encode j = putField (opField w) 28 ||| putField (w.extractLsb' 0 n) 0 := by
          rw [hread.encode_eq, hread.pattern, hop]
      _ = putField (opField w) 28 ||| putField (reservedField w n) n ||| putField (w.extractLsb' 0 n) 0 := by
          rw [(putField_eq_zero_iff (reservedField w n) (by have := hread.bits; omega)).2 hzero, BitVec.or_zero]
      _ = w := (word_eq_fields w hread.bits).symm

/-- Each field of an encoded term is read back: no other field reaches into its bits. -/
theorem decode_encode (i : Instr) : decode (encode i) = .ok i := by
  cases i with
  | ldc | ldp | ldf | inj | lenv | fin => rfl
  | seed a => simp [encode, decode_seed, ifReservedZero_of_zero, opField, reservedField, laneField, BitVec.extractLsb'_or]
  | blk t => simp [encode, decode_blk, ifReservedZero_of_zero, opField, reservedField, targetField, BitVec.extractLsb'_or]
  | mix a b c d e => simp [encode, decode_mix, ifReservedZero_of_zero, opField, reservedField, laneField, BitVec.extractLsb'_or]
  | jmp t => simp [encode, decode_jmp, ifReservedZero_of_zero, opField, reservedField, targetField, BitVec.extractLsb'_or]
  | chk t => simp [encode, decode_chk, ifReservedZero_of_zero, opField, reservedField, targetField, BitVec.extractLsb'_or]
  | shuf a b c d e f => simp [encode, decode_shuf, ifReservedZero_of_zero, opField, reservedField, laneField, BitVec.extractLsb'_or]
  | addq a b => simp [encode, decode_addq, ifReservedZero_of_zero, opField, reservedField, laneField, BitVec.extractLsb'_or]
  | xorv a b => simp [encode, decode_xorv, ifReservedZero_of_zero, opField, reservedField, laneField, BitVec.extractLsb'_or]

end Sys2Proof

namespace Sys2Proof.Machine

/-- Settles O1: the two round trips, and the decoder's equation for each opcode. -/
theorem decodeAndEncodeAreInverse : Obligations.DecodeAndEncodeAreInverse := by
  refine ⟨decode_encode, fun w i h => encode_of_decode h, fun w => ?_⟩
  simp only [← ifReservedZero_eq_toNat w]
  exact ⟨decode_seed, decode_blk, decode_ldc, decode_mix, decode_jmp, decode_ldp, decode_ldf, decode_inj,
    decode_lenv, decode_chk, decode_shuf, decode_addq, decode_xorv, decode_fin, decode_noRow⟩

/-- Settles O2: a row's mask test is a test of opcode and reserved bits, and the opcode determines the row. -/
theorem rowsOfTheOpcodeMapDecideTheMnemonic : Obligations.RowsOfTheOpcodeMapDecideTheMnemonic := by
  refine ⟨fun w r hr => OpcodeRow.and_mask_eq_iff_decode hr w, fun w r q hr hq hwr hwq => ?_⟩
  exact OpcodeRow.opcode_injective hr hq ((OpcodeRow.opField_eq hr hwr).symm.trans (OpcodeRow.opField_eq hq hwq))

/-- Settles O3, through what the decoder can do with a word and the sequencer's refusal of what it rejects. -/
theorem illegalWordsAreRefused : Obligations.IllegalWordsAreRefused := by
  refine ⟨decode_eq_opcode_iff, decode_eq_reservedBit_iff, legalWord_eq_false_iff, fun s hbusy hscript hill => ?_⟩
  obtain ⟨e, he⟩ := (legalWord_eq_false_iff s.fetch).1 hill
  rw [step, nextTurn_nil hscript, sequencerTurn_illegal hbusy he]

end Sys2Proof.Machine
end

section
/-!
PROOFS. The field product of 40_datapath_primitives.md R114. The idea: `xtime` is linear over xor, and the
product by `c` is the map that is linear, commutes with `xtime` and takes 1 to `c`. That such a map is
determined by where it takes 1 gives the commutative and the associative law, and with them the uniqueness
of inverses, without a table of products.
-/

namespace Sys2Proof.Machine

/-! ### Linear maps that commute with doubling -/

/-- A map of bytes that is linear over xor and commutes with `xtime`. -/
structure XtimeLinear (f : Byte → Byte) : Prop where
  map_xor : ∀ u v, f (u ^^^ v) = f u ^^^ f v
  map_xtime : ∀ v, f (xtime v) = xtime (f v)

theorem xtime_xor (u v : Byte) : xtime (u ^^^ v) = xtime u ^^^ xtime v := by
  unfold xtime
  rw [BitVec.msb_xor, BitVec.shiftLeft_xor_distrib]
  cases u.msb <;> cases v.msb
  · rfl
  · exact BitVec.xor_assoc _ _ _
  · simp only [Bool.xor_false, if_true, Bool.false_eq_true, if_false]
    ac_rfl
  · calc u <<< 1 ^^^ v <<< 1 = u <<< 1 ^^^ v <<< 1 ^^^ (0x1B#8 ^^^ 0x1B#8) := by simp
      _ = (u <<< 1 ^^^ 0x1B#8) ^^^ (v <<< 1 ^^^ 0x1B#8) := by ac_rfl

theorem xtime_xtimeLinear : XtimeLinear xtime := ⟨xtime_xor, fun _ => rfl⟩

theorem xtimes_eq_iterate (n : Nat) (v : Byte) : xtimes n v = xtime^[n] v := by
  induction n with
  | zero => rfl
  | succ n ih => rw [xtimes, ih, Function.iterate_succ_apply']

namespace XtimeLinear
variable {f : Byte → Byte} (hf : XtimeLinear f)
include hf

theorem map_zero : f 0#8 = 0#8 := by
  simpa using hf.map_xor 0#8 0#8

theorem map_xtimes (n : Nat) (v : Byte) : f (xtimes n v) = xtimes n (f v) := by
  induction n with
  | zero => rfl
  | succ n ih => rw [xtimes, xtimes, hf.map_xtime, ih]

theorem map_gmulBelow (c v : Byte) (n : Nat) : f (gmulBelow c v n) = gmulBelow c (f v) n := by
  induction n with
  | zero => exact hf.map_zero
  | succ n ih =>
    rw [gmulBelow, gmulBelow]
    split
    · rw [hf.map_xor, ih, hf.map_xtimes]
    · exact ih

/-- Such a map commutes with the product by any constant, so it is determined by `f 1`. -/
theorem map_gmul (c v : Byte) : f (gmul c v) = gmul c (f v) := hf.map_gmulBelow c v 8

end XtimeLinear

/-! ### The product -/

theorem xtimes_xor (n : Nat) (u v : Byte) : xtimes n (u ^^^ v) = xtimes n u ^^^ xtimes n v := by
  induction n with
  | zero => rfl
  | succ n ih => rw [xtimes, xtimes, xtimes, ih, xtime_xor]

theorem gmulBelow_xor (c u v : Byte) (n : Nat) :
    gmulBelow c (u ^^^ v) n = gmulBelow c u n ^^^ gmulBelow c v n := by
  induction n with
  | zero => exact BitVec.xor_self.symm
  | succ n ih =>
    rw [gmulBelow, gmulBelow, gmulBelow]
    split
    · rw [ih, xtimes_xor]
      ac_rfl
    · exact ih

theorem gmul_xtimeLinear (c : Byte) : XtimeLinear (gmul c) where
  map_xor u v := gmulBelow_xor c u v 8
  map_xtime v := (xtime_xtimeLinear.map_gmul c v).symm

theorem gmul_xor (c u v : Byte) : gmul c (u ^^^ v) = gmul c u ^^^ gmul c v := (gmul_xtimeLinear c).map_xor u v

/-- The doublings of 1 are the single bits. -/
theorem gmul_one (c : Byte) : gmul c 1#8 = c := by
  revert c
  decide +kernel

theorem gmul_comm (c v : Byte) : gmul c v = gmul v c :=
  calc gmul c v = gmul c (gmul v 1#8) := by rw [gmul_one]
    _ = gmul v (gmul c 1#8) := (gmul_xtimeLinear c).map_gmul v 1#8
    _ = gmul v c := by rw [gmul_one]

theorem gmul_assoc (b c v : Byte) : gmul (gmul b c) v = gmul b (gmul c v) :=
  calc gmul (gmul b c) v = gmul v (gmul b c) := gmul_comm _ _
    _ = gmul b (gmul v c) := (gmul_xtimeLinear v).map_gmul b c
    _ = gmul b (gmul c v) := by rw [gmul_comm v c]

theorem xor_gmul (b c v : Byte) : gmul (b ^^^ c) v = gmul b v ^^^ gmul c v := by
  rw [gmul_comm, gmul_xor, gmul_comm v, gmul_comm v]

theorem one_gmul (v : Byte) : gmul 1#8 v = v := by
  rw [gmul_comm, gmul_one]

theorem zero_gmul (v : Byte) : gmul 0#8 v = 0#8 := by
  rw [gmul_comm, (gmul_xtimeLinear v).map_zero]

/-- A byte has at most one inverse. -/
theorem eq_of_gmul_eq_one {u v w : Byte} (hv : gmul u v = 1#8) (hw : gmul u w = 1#8) : v = w :=
  calc v = gmul v (gmul u w) := by rw [hw, gmul_one]
    _ = gmul (gmul u v) w := by rw [← gmul_assoc, gmul_comm v u]
    _ = w := by rw [hv, one_gmul]

/-! ### R114 -/

theorem gmulBelow_eq_foldl (c v : Byte) (n : Nat) :
    gmulBelow c v n =
      (List.range n).foldl (fun acc j => if c.getLsbD j then acc ^^^ xtime^[j] v else acc) 0#8 := by
  induction n with
  | zero => rfl
  | succ n ih =>
    rw [gmulBelow, List.range_succ, List.foldl_append, ← ih, xtimes_eq_iterate]
    rfl

/-- Multiplying by a power of two doubles as often as its exponent says. -/
theorem xtimes_one_gmul (n : Nat) (v : Byte) : gmul (xtimes n 1#8) v = xtimes n v := by
  rw [gmul_comm, (gmul_xtimeLinear v).map_xtimes, gmul_one]

/-- Settles O11. The products by the constants of the matrix split along the bits of the constant. -/
theorem fieldProductByDoubling : Obligations.FieldProductByDoubling := by
  refine ⟨fun v => ?_, fun c v => gmulBelow_eq_foldl c v 8, fun v => ?_, fun v => ?_, fun v => ?_, fun v => ?_,
    by decide, by decide⟩
  · rw [xtime, BitVec.msb_eq_getLsbD_last]
  · have h09 : (0x09 : Byte) = xtimes 3 1#8 ^^^ xtimes 0 1#8 := by decide
    rw [h09, xor_gmul, xtimes_one_gmul, xtimes_one_gmul]
    rfl
  · have h0B : (0x0B : Byte) = xtimes 3 1#8 ^^^ xtimes 1 1#8 ^^^ xtimes 0 1#8 := by decide
    rw [h0B, xor_gmul, xor_gmul, xtimes_one_gmul, xtimes_one_gmul, xtimes_one_gmul]
    rfl
  · have h0D : (0x0D : Byte) = xtimes 3 1#8 ^^^ xtimes 2 1#8 ^^^ xtimes 0 1#8 := by decide
    rw [h0D, xor_gmul, xor_gmul, xtimes_one_gmul, xtimes_one_gmul, xtimes_one_gmul]
    rfl
  · have h0E : (0x0E : Byte) = xtimes 3 1#8 ^^^ xtimes 2 1#8 ^^^ xtimes 1 1#8 := by decide
    rw [h0E, xor_gmul, xor_gmul, xtimes_one_gmul, xtimes_one_gmul, xtimes_one_gmul]
    rfl

end Sys2Proof.Machine
end

section
/-!
PROOFS. The steps of the AES round (40_datapath_primitives.md R110 to R113). The idea: a step is read through
the bytes, or the cells of the state matrix, of its result, and it is one-to-one because each byte of its
input can be computed back from them.
-/

namespace Sys2Proof.Machine

/-! ### InvSubBytes (R112) -/

theorem byteOf_invSubBytes (s : Lane) {i : Nat} (hi : i < 16) :
    byteOf (invSubBytes s) i = invSbox (byteOf s i) :=
  byteOf_ofBytes (fun j => invSbox (byteOf s j)) hi

/-- The affine step of the AES S-box: `SBOX[v]` is this map of the field inverse of `v`. -/
def sboxAffine (u : Byte) : Byte :=
  u ^^^ u.rotateLeft 1 ^^^ u.rotateLeft 2 ^^^ u.rotateLeft 3 ^^^ u.rotateLeft 4 ^^^ 0x63#8

/-- The table holds at `sboxAffine u` an inverse of `u`. -/
theorem gmul_invSbox_sboxAffine (u : Byte) (hu : u ≠ 0#8) : gmul u (invSbox (sboxAffine u)) = 1#8 := by
  revert u
  decide +kernel

/-- Inverses are unique, so the table holds at `sboxAffine u` the inverse of `u`. -/
theorem invSbox_sboxAffine {u v : Byte} (h : gmul u v = 1#8) : invSbox (sboxAffine u) = v := by
  have hu : u ≠ 0#8 := by
    rintro rfl
    rw [zero_gmul] at h
    exact absurd h (by decide)
  exact eq_of_gmul_eq_one (gmul_invSbox_sboxAffine u hu) h

theorem invSbox_sboxAffine_zero : invSbox (sboxAffine 0#8) = 0#8 := by decide

/-- Every byte is in the table: a nonzero one at the affine image of its inverse. -/
theorem invSbox_surjective : Function.Surjective invSbox := by
  intro v
  by_cases hv : v = 0#8
  · exact ⟨sboxAffine 0#8, by rw [invSbox_sboxAffine_zero, hv]⟩
  · have hinv := gmul_invSbox_sboxAffine v hv
    exact ⟨sboxAffine (invSbox (sboxAffine v)), invSbox_sboxAffine (by rw [gmul_comm, hinv])⟩

theorem invSbox_bijective : Function.Bijective invSbox :=
  Finite.surjective_iff_bijective.1 invSbox_surjective

theorem invSubBytes_injective : Function.Injective invSubBytes := by
  intro s t h
  refine byteOf_ext fun i hi => invSbox_bijective.injective ?_
  rw [← byteOf_invSubBytes s hi, ← byteOf_invSubBytes t hi, h]

/-- Settles O9. Only that the table holds inverses is computed; the rest is the uniqueness of inverses. -/
theorem invSboxInvertsTheSbox : Obligations.InvSboxInvertsTheSbox := by
  refine ⟨fun u v h => ?_, invSbox_bijective, fun s i hi => byteOf_invSubBytes s hi⟩
  rcases h with h | ⟨rfl, rfl⟩
  · exact invSbox_sboxAffine h
  · exact invSbox_sboxAffine_zero

/-! ### InvShiftRows (R111) -/

/-- The source of a byte as one product: a step to the right by a row's number is a step of 13 bytes. -/
theorem byteOf_invShiftRows (s : Lane) {i : Nat} (hi : i < 16) :
    byteOf (invShiftRows s) i = byteOf s (13 * i % 16) := by
  have hsource : 4 * ((i / 4 + 4 - i % 4) % 4) + i % 4 = 13 * i % 16 := by omega
  rw [invShiftRows, byteOf_ofBytes _ hi, aesCell, hsource]

/-- 5 inverts 13 modulo 16. -/
theorem byteOf_eq_invShiftRows (s : Lane) {i : Nat} (hi : i < 16) :
    byteOf s i = byteOf (invShiftRows s) (5 * i % 16) := by
  rw [byteOf_invShiftRows s (by omega), show 13 * (5 * i % 16) % 16 = i by omega]

theorem invShiftRows_injective : Function.Injective invShiftRows := by
  intro s t h
  refine byteOf_ext fun i hi => ?_
  rw [byteOf_eq_invShiftRows s hi, byteOf_eq_invShiftRows t hi, h]

/-- Settles O8. The table of R111 is the list of the sixteen multiples of 13. -/
theorem invShiftRowsPermutesTheBytes : Obligations.InvShiftRowsPermutesTheBytes := by
  intro s
  refine ⟨fun i hi => ?_, fun i hi => byteOf_invShiftRows s hi, fun r c hr hc => ?_⟩
  · have htable : ∀ j < 16,
        13 * j % 16 = [0, 13, 10, 7, 4, 1, 14, 11, 8, 5, 2, 15, 12, 9, 6, 3].getD j 0 := by decide
    rw [byteOf_invShiftRows s hi, htable i hi]
  · rw [aesCell, aesCell, byteOf_invShiftRows s (by omega),
      show 13 * (4 * c + r) % 16 = 4 * ((c + 4 - r) % 4) + r by omega]

/-! ### InvMixColumns on a column (R113) -/

section Column
variable (s0 s1 s2 s3 : Byte)

/-- The product of a row of coefficients with a circulant matrix, given by its first row. -/
theorem gdot_circulant (c0 c1 c2 c3 a0 a1 a2 a3 : Byte) :
    gdot c0 c1 c2 c3 (gdot a0 a1 a2 a3 s0 s1 s2 s3) (gdot a3 a0 a1 a2 s0 s1 s2 s3)
        (gdot a2 a3 a0 a1 s0 s1 s2 s3) (gdot a1 a2 a3 a0 s0 s1 s2 s3) =
      gdot (gdot c0 c1 c2 c3 a0 a3 a2 a1) (gdot c0 c1 c2 c3 a1 a0 a3 a2) (gdot c0 c1 c2 c3 a2 a1 a0 a3)
        (gdot c0 c1 c2 c3 a3 a2 a1 a0) s0 s1 s2 s3 := by
  simp only [gdot, gmul_xor, xor_gmul, gmul_assoc]
  ac_rfl

theorem gdot_unit :
    gdot 1#8 0#8 0#8 0#8 s0 s1 s2 s3 = s0 ∧ gdot 0#8 1#8 0#8 0#8 s0 s1 s2 s3 = s1 ∧
    gdot 0#8 0#8 1#8 0#8 s0 s1 s2 s3 = s2 ∧ gdot 0#8 0#8 0#8 1#8 s0 s1 s2 s3 = s3 := by
  simp [gdot, one_gmul, zero_gmul]

/-- The rows of the forward matrix, `02 03 01 01` and its rotations, compute a column `s0 s1 s2 s3` back from
the new column `n`. -/
theorem gdot_forward_of_invMixCell {n : Nat → Byte} (hn : ∀ r < 4, invMixCell r s0 s1 s2 s3 = n r) :
    gdot 0x02#8 0x03#8 0x01#8 0x01#8 (n 0) (n 1) (n 2) (n 3) = s0 ∧
    gdot 0x01#8 0x02#8 0x03#8 0x01#8 (n 0) (n 1) (n 2) (n 3) = s1 ∧
    gdot 0x01#8 0x01#8 0x02#8 0x03#8 (n 0) (n 1) (n 2) (n 3) = s2 ∧
    gdot 0x03#8 0x01#8 0x01#8 0x02#8 (n 0) (n 1) (n 2) (n 3) = s3 := by
  have hcoeff {b0 b1 b2 b3 e0 e1 e2 e3 : Byte} (h : b0 = e0 ∧ b1 = e1 ∧ b2 = e2 ∧ b3 = e3) :
      gdot b0 b1 b2 b3 s0 s1 s2 s3 = gdot e0 e1 e2 e3 s0 s1 s2 s3 := by
    obtain ⟨rfl, rfl, rfl, rfl⟩ := h
    rfl
  obtain ⟨h0, h1, h2, h3⟩ := gdot_unit s0 s1 s2 s3
  rw [← hn 0 (by decide), ← hn 1 (by decide), ← hn 2 (by decide), ← hn 3 (by decide)]
  exact ⟨(gdot_circulant ..).trans ((hcoeff (by decide)).trans h0),
    (gdot_circulant ..).trans ((hcoeff (by decide)).trans h1),
    (gdot_circulant ..).trans ((hcoeff (by decide)).trans h2),
    (gdot_circulant ..).trans ((hcoeff (by decide)).trans h3)⟩

theorem gdot_xor (c0 c1 c2 c3 t0 t1 t2 t3 : Byte) :
    gdot c0 c1 c2 c3 (s0 ^^^ t0) (s1 ^^^ t1) (s2 ^^^ t2) (s3 ^^^ t3) =
      gdot c0 c1 c2 c3 s0 s1 s2 s3 ^^^ gdot c0 c1 c2 c3 t0 t1 t2 t3 := by
  simp only [gdot, gmul_xor]
  ac_rfl

theorem invMixCell_xor (r : Nat) (t0 t1 t2 t3 : Byte) :
    invMixCell r (s0 ^^^ t0) (s1 ^^^ t1) (s2 ^^^ t2) (s3 ^^^ t3) =
      invMixCell r s0 s1 s2 s3 ^^^ invMixCell r t0 t1 t2 t3 := by
  unfold invMixCell
  split <;> exact gdot_xor ..

end Column

theorem gdot_same (c0 c1 c2 c3 v : Byte) : gdot c0 c1 c2 c3 v v v v = gmul (c0 ^^^ c1 ^^^ c2 ^^^ c3) v := by
  simp only [gdot, xor_gmul]

/-- The coefficients of each row add up to 1. -/
theorem invMixCell_same (r : Nat) (v : Byte) : invMixCell r v v v v = v := by
  unfold invMixCell
  split <;> exact (gdot_same ..).trans (one_gmul v)

/-! ### InvMixColumns on the state (R113) -/

theorem aesCell_xor (p q : Lane) (r c : Nat) : aesCell (p ^^^ q) r c = aesCell p r c ^^^ aesCell q r c :=
  byteOf_xor p q (4 * c + r)

/-- A state is determined by its cells. -/
theorem aesCell_ext {p q : Lane} (h : ∀ c < 4, ∀ r < 4, aesCell p r c = aesCell q r c) : p = q := by
  refine byteOf_ext fun i hi => ?_
  have hcell := h (i / 4) (by omega) (i % 4) (by omega)
  rwa [aesCell, aesCell, Nat.div_add_mod] at hcell

theorem aesCell_invMixColumns (s : Lane) {r c : Nat} (hr : r < 4) (hc : c < 4) :
    aesCell (invMixColumns s) r c =
      invMixCell r (aesCell s 0 c) (aesCell s 1 c) (aesCell s 2 c) (aesCell s 3 c) := by
  rw [aesCell, invMixColumns, byteOf_ofBytes _ (by omega), show (4 * c + r) % 4 = r by omega,
    show (4 * c + r) / 4 = c by omega]

theorem invMixColumns_xor (p q : Lane) : invMixColumns (p ^^^ q) = invMixColumns p ^^^ invMixColumns q := by
  refine aesCell_ext fun c hc r hr => ?_
  simp only [aesCell_xor, aesCell_invMixColumns _ hr hc, invMixCell_xor]

theorem invMixColumns_zero : invMixColumns 0#128 = 0#128 := by
  simpa using invMixColumns_xor 0#128 0#128

theorem invMixColumns_injective : Function.Injective invMixColumns := by
  intro p q h
  refine aesCell_ext fun c hc => ?_
  have hback (s : Lane) := gdot_forward_of_invMixCell _ _ _ _ fun r hr => (aesCell_invMixColumns s hr hc).symm
  obtain ⟨hp0, hp1, hp2, hp3⟩ := hback p
  obtain ⟨hq0, hq1, hq2, hq3⟩ := hback q
  rw [h] at hp0 hp1 hp2 hp3
  intro r hr
  interval_cases r
  exacts [hp0.symm.trans hq0, hp1.symm.trans hq1, hp2.symm.trans hq2, hp3.symm.trans hq3]

/-- Settles O10: the matrix by cells; linearity and the fixed columns from the laws of the product. -/
theorem invMixColumnsIsTheMatrix : Obligations.InvMixColumnsIsTheMatrix := by
  refine ⟨fun s c hc => ?_, invMixColumns_xor, invMixColumns_zero, fun s c v hc hsame r hr => ?_⟩
  · exact ⟨aesCell_invMixColumns s (r := 0) (by decide) hc, aesCell_invMixColumns s (r := 1) (by decide) hc,
      aesCell_invMixColumns s (r := 2) (by decide) hc, aesCell_invMixColumns s (r := 3) (by decide) hc⟩
  · rw [aesCell_invMixColumns s hr hc, hsame 0 (by decide), hsame 1 (by decide), hsame 2 (by decide),
      hsame 3 (by decide), invMixCell_same]

/-! ### The round (R110) -/

theorem aesRound_eq (s k : Lane) : aesRound s k = invMixColumns (invSubBytes (invShiftRows s)) ^^^ k := rfl

/-- One step moves bytes and the other replaces each by itself. -/
theorem invSubBytes_invShiftRows (s : Lane) : invSubBytes (invShiftRows s) = invShiftRows (invSubBytes s) := by
  refine byteOf_ext fun i hi => ?_
  rw [byteOf_invSubBytes _ hi, byteOf_invShiftRows s hi, byteOf_invShiftRows _ hi,
    byteOf_invSubBytes s (Nat.mod_lt _ (by decide))]

theorem aesRound_injective (k : Lane) : Function.Injective fun s => aesRound s k := by
  intro s t h
  have hmix := (BitVec.xor_left_inj k).1 h
  exact invShiftRows_injective (invSubBytes_injective (invMixColumns_injective hmix))

/-- Settles O7. Each step is one-to-one, and a one-to-one map of a finite type is a bijection. -/
theorem aesRoundIsABijectionOfTheState : Obligations.AesRoundIsABijectionOfTheState := by
  refine ⟨aesRound_eq, invSubBytes_invShiftRows, by decide +kernel, fun s k k' => ?_, fun k => ?_⟩
  · generalize hx : invMixColumns (invSubBytes (invShiftRows s)) = x
    calc aesRound s k ^^^ aesRound s k' = x ^^^ k ^^^ (x ^^^ k') := by rw [aesRound_eq, aesRound_eq, hx]
      _ = x ^^^ x ^^^ (k ^^^ k') := by ac_rfl
      _ = k ^^^ k' := by rw [BitVec.xor_self, BitVec.zero_xor]
  · exact Finite.injective_iff_bijective.1 (aesRound_injective k)

end Sys2Proof.Machine
end

section
/-!
PROOFS. The quadword sums and the byte moves (40_datapath_primitives.md R116, R118 to R120). The idea: a
byte of a value is eight of its bits, so the integer form of a byte move is compared with it bit by bit in
each byte.
-/

namespace Sys2Proof.Machine

/-! ### Quadwords as little-endian integers (R116) -/

/-- The first `n` base-256 digits of `x`. -/
theorem sum_digits_eq_mod (x n : Nat) :
    ((List.range n).map fun i => x / 256 ^ i % 256 * 256 ^ i).sum = x % 256 ^ n := by
  induction n with
  | zero => simp [Nat.mod_one]
  | succ n ih =>
    rw [List.range_succ, List.map_append, List.sum_append, ih, Nat.mod_pow_succ]
    simp [Nat.mul_comm]

theorem byteOf_toNat (v : Lane) (i : Nat) : (byteOf v i).toNat = v.toNat / 256 ^ i % 256 := by
  rw [byteOf, BitVec.extractLsb'_toNat, Nat.shiftRight_eq_div_pow, Nat.pow_mul]

theorem quadLo_eq_sum (v : Lane) :
    (quadLo v).toNat = ((List.range 8).map fun i => (byteOf v i).toNat * 256 ^ i).sum := by
  simp only [byteOf_toNat, sum_digits_eq_mod]
  rw [quadLo, BitVec.extractLsb'_toNat, Nat.shiftRight_zero, show 2 ^ 64 = 256 ^ 8 by decide]

theorem quadHi_eq_sum (v : Lane) :
    (quadHi v).toNat = ((List.range 8).map fun i => (byteOf v (8 + i)).toNat * 256 ^ i).sum := by
  simp only [byteOf_toNat, Nat.pow_add, ← Nat.div_div_eq_div_mul, sum_digits_eq_mod]
  rw [quadHi, BitVec.extractLsb'_toNat, Nat.shiftRight_eq_div_pow, show 2 ^ 64 = 256 ^ 8 by decide]

/-- Settles O12: the sums by the quadwords of `add64x2`, the integers by base-256 digits. -/
theorem quadwordsAddIndependently : Obligations.QuadwordsAddIndependently := by
  intro p q
  refine ⟨?_, ?_, quadLo_eq_sum p, quadHi_eq_sum p⟩
  · exact (congrArg BitVec.toNat (quadLo_add64x2 p q)).trans (BitVec.toNat_add _ _)
  · exact (congrArg BitVec.toNat (quadHi_add64x2 p q)).trans (BitVec.toNat_add _ _)

/-! ### Bits of bytes -/

theorem getLsbD_byteOf (v : Lane) (i : Nat) {j : Nat} (hj : j < 8) :
    (byteOf v i).getLsbD j = v.getLsbD (8 * i + j) := by
  simp [byteOf, hj]

/-- The value built from bytes `f` is `v` when each bit of each `f i` is the bit of `v` in its place. -/
theorem ofBytes_eq_of_getLsbD {f : Nat → Byte} {v : Lane}
    (h : ∀ i < 16, ∀ j < 8, (f i).getLsbD j = v.getLsbD (8 * i + j)) : ofBytes f = v := by
  refine byteOf_ext fun i hi => BitVec.eq_of_getLsbD_eq fun j hj => ?_
  rw [byteOf_ofBytes f hi, getLsbD_byteOf v i hj, h i hi j hj]

/-! ### align (R118) -/

theorem byteOf_align (p q : Lane) (k : Nat) {i : Nat} (hi : i < 16) :
    byteOf (align p q k) i = if k + i < 16 then byteOf p (k + i) else byteOf q (k + i - 16) :=
  byteOf_ofBytes (fun j => if k + j < 16 then byteOf p (k + j) else byteOf q (k + j - 16)) hi

theorem align_eq_shift (p q : Lane) (k : Nat) :
    align p q k = ((q ++ p : BitVec (128 + 128)) >>> (8 * k)).setWidth 128 := by
  refine ofBytes_eq_of_getLsbD fun i hi j hj => ?_
  have hpos : 8 * k + (8 * i + j) = 8 * (k + i) + j := by omega
  rw [BitVec.getLsbD_setWidth, BitVec.getLsbD_ushiftRight, BitVec.getLsbD_append, hpos]
  split
  next hp =>
    simp [getLsbD_byteOf _ _ hj, show 8 * (k + i) + j < 128 by omega, show 8 * i + j < 128 by omega]
  next hq =>
    simp [getLsbD_byteOf _ _ hj, show ¬ 8 * (k + i) + j < 128 by omega, show 8 * i + j < 128 by omega,
      show 8 * (k + i - 16) + j = 8 * (k + i) + j - 128 by omega]

/-- Settles O13. Neither form needs the bound on `k`: beyond the sixteen bytes of `q` both read 0. -/
theorem alignShiftsTheConcatenation : Obligations.AlignShiftsTheConcatenation :=
  fun p q k _ => ⟨fun _ hi => byteOf_align p q k hi, align_eq_shift p q k⟩

/-! ### rotbytes (R119) -/

theorem byteOf_rotbytes (v : Lane) (n : Nat) {i : Nat} (hi : i < 16) :
    byteOf (rotbytes v n) i = byteOf v ((i + n) % 16) :=
  byteOf_ofBytes (fun j => byteOf v ((j + n) % 16)) hi

theorem rotbytes_zero (v : Lane) : rotbytes v 0 = v := by
  refine byteOf_ext fun i hi => ?_
  rw [byteOf_rotbytes v 0 hi, Nat.add_zero, Nat.mod_eq_of_lt hi]

theorem rotbytes_eq_rotateRight (v : Lane) {n : Nat} (hn : n < 16) : rotbytes v n = v.rotateRight (8 * n) := by
  refine ofBytes_eq_of_getLsbD fun i hi j hj => ?_
  rw [getLsbD_byteOf v _ hj, BitVec.getLsbD_rotateRight, Nat.mod_eq_of_lt (show 8 * n < 128 by omega)]
  by_cases hwrap : i + n < 16
  · simp [show 8 * i + j < 128 - 8 * n by omega, show 8 * ((i + n) % 16) + j = 8 * n + (8 * i + j) by omega]
  · simp [show ¬ 8 * i + j < 128 - 8 * n by omega, show 8 * i + j < 128 by omega,
      show 8 * ((i + n) % 16) + j = 8 * i + j - (128 - 8 * n) by omega]

/-- Settles O14: in both forms the position wraps once, at byte 16 or at bit 128. -/
theorem rotbytesBringsByteNToTheFront : Obligations.RotbytesBringsByteNToTheFront :=
  fun v n hn => ⟨fun _ hi => byteOf_rotbytes v n hi, rotbytes_zero v, rotbytes_eq_rotateRight v hn⟩

/-! ### maskbytes (R120) -/

theorem byteOf_maskbytes (v : Lane) (m : Nat) {i : Nat} (hi : i < 16) :
    byteOf (maskbytes v m) i = if i < m then byteOf v i else 0#8 :=
  byteOf_ofBytes (fun j => if j < m then byteOf v j else 0#8) hi

/-- The bits of byte `i` lie below bit `8m` exactly when `i < m`. -/
theorem maskbytes_eq_and (v : Lane) (m : Nat) :
    maskbytes v m = v &&& BitVec.ofNat 128 (2 ^ (8 * m) - 1) := by
  refine ofBytes_eq_of_getLsbD fun i hi j hj => ?_
  have hbit : 8 * i + j < 8 * m ↔ i < m := by omega
  rw [BitVec.getLsbD_and, BitVec.getLsbD_ofNat, Nat.testBit_two_pow_sub_one]
  by_cases hm : i < m
  · simp [hm, hbit, getLsbD_byteOf v i hj, show 8 * i + j < 128 by omega]
  · simp [hm, hbit]

/-- Settles O15. The mask sets exactly the bits of the bytes below `m`. -/
theorem maskbytesKeepsTheLowBytes : Obligations.MaskbytesKeepsTheLowBytes :=
  fun v m _ => ⟨fun _ hi => byteOf_maskbytes v m hi, maskbytes_eq_and v m⟩

end Sys2Proof.Machine
end

section
/-!
PROOFS. The Seeder's micro-operation (41_seeder.md R140). The idea: `SEED` is a recorded read, one lane
assignment and the advance of `pc`; each of the three leaves the same parts of the state alone, and what
they leave alone together is the frame.
-/

namespace Sys2Proof.Machine

/-! ### What the shared updates leave unchanged -/

theorem InnerStep.trans {s t u : State} (hst : InnerStep s t) (htu : InnerStep t u) : InnerStep s u where
  flags := ⟨htu.flags.busy.trans hst.flags.busy, htu.flags.done.trans hst.flags.done,
    htu.flags.err.trans hst.flags.err, htu.flags.errCode.trans hst.flags.errCode⟩
  hostRegs := ⟨htu.hostRegs.seedAddr.trans hst.hostRegs.seedAddr, htu.hostRegs.seedLen.trans hst.hostRegs.seedLen,
    htu.hostRegs.dataAddr.trans hst.hostRegs.dataAddr, htu.hostRegs.dataLen.trans hst.hostRegs.dataLen,
    htu.hostRegs.digest.trans hst.hostRegs.digest⟩
  outside := ⟨fun a => (htu.outside.byteAt a).trans (hst.outside.byteAt a),
    fun a => (htu.outside.readable a).trans (hst.outside.readable a), htu.outside.rom.trans hst.outside.rom,
    htu.outside.script.trans hst.outside.script, htu.outside.answers.trans hst.outside.answers⟩

theorem State.noteRead_innerStep (s : State) (addr : Quad) : InnerStep s (s.noteRead addr) where
  flags := ⟨rfl, rfl, rfl, rfl⟩
  hostRegs := ⟨rfl, rfl, rfl, rfl, rfl⟩
  outside := ⟨s.noteRead_byteAt addr, s.noteRead_readable addr, rfl, rfl, rfl⟩

theorem State.setLane_innerStep (s : State) (i : LaneNo) (v : Lane) : InnerStep s (s.setLane i v) where
  flags := ⟨rfl, rfl, rfl, rfl⟩
  hostRegs := ⟨rfl, rfl, rfl, rfl, rfl⟩
  outside := ⟨s.setLane_byteAt i v, s.setLane_readable i v, rfl, rfl, rfl⟩

theorem State.advance_innerStep (s : State) : InnerStep s s.advance where
  flags := ⟨rfl, rfl, rfl, rfl⟩
  hostRegs := ⟨rfl, rfl, rfl, rfl, rfl⟩
  outside := ⟨s.advance_byteAt, s.advance_readable, rfl, rfl, rfl⟩

theorem State.setLane_sameLanesOutside (s : State) (i : LaneNo) (v : Lane) :
    SameLanesOutside [i] s (s.setLane i v) :=
  fun _ hj => s.setLane_lane_ne v (List.ne_of_not_mem_cons hj)

/-! ### SEED (R140) -/

/-- A field at bit 0 is its zero-extension. -/
theorem putField_at_zero {n : Nat} (v : BitVec n) : putField v 0 = v.setWidth 32 :=
  BitVec.shiftLeft_zero _

theorem encode_seed (a : LaneNo) : encode (.seed a) = 0x10000000#32 ||| a.setWidth 32 := by
  rw [encode, putField_at_zero]

theorem exec_seed (a : LaneNo) (s : State) : exec (.seed a) s = execSeed a s := rfl

/-- The state after `SEED a` when its window can be read. -/
def State.seeded (s : State) (a : LaneNo) : State :=
  ((s.noteRead (seedReadAddr s a)).setLane a (s.window (seedReadAddr s a))).advance

theorem exec_seed_readable {a : LaneNo} {s : State} (h : s.windowReadable (seedReadAddr s a) = true) :
    exec (.seed a) s = .next (s.seeded a) :=
  (exec_seed a s).trans (execSeed_readable h)

theorem exec_seed_unreadable {a : LaneNo} {s : State} (h : s.windowReadable (seedReadAddr s a) = false) :
    exec (.seed a) s = .fault (.unreadable (seedReadAddr s a)) :=
  (exec_seed a s).trans (execSeed_unreadable h)

section Seeded
variable (s : State) (a : LaneNo)

theorem State.seeded_lane_self : (s.seeded a).lane a = s.window (seedReadAddr s a) := by
  simp [State.seeded]

theorem State.seeded_sameLanesOutside : SameLanesOutside [a] s (s.seeded a) :=
  (s.noteRead (seedReadAddr s a)).setLane_sameLanesOutside a (s.window (seedReadAddr s a))

theorem State.seeded_pc : (s.seeded a).pc = s.pc + 1#7 := by
  simp [State.seeded]

theorem State.seeded_reads : (s.seeded a).reads = s.reads ++ [seedReadAddr s a] := by
  simp [State.seeded]

theorem State.seeded_sameInjection : SameInjection s (s.seeded a) := ⟨rfl, rfl, rfl, rfl⟩

theorem State.seeded_sameCounters : SameCounters s (s.seeded a) := ⟨rfl, rfl, rfl⟩

theorem State.seeded_innerStep : InnerStep s (s.seeded a) :=
  ((s.noteRead_innerStep _).trans (State.setLane_innerStep _ a _)).trans (State.advance_innerStep _)

end Seeded

/-- Settles O16: the old lane does not enter, so the two branches of the read are all that can happen. -/
theorem seedLoadsItsLane : Obligations.SeedLoadsItsLane := by
  refine fun a s => ⟨encode_seed a, fun hread => ?_, fun hread => exec_seed_unreadable hread⟩
  exact ⟨s.seeded a, exec_seed_readable hread, s.seeded_lane_self a, s.seeded_sameLanesOutside a,
    s.seeded_pc a, s.seeded_reads a, s.seeded_sameInjection a, s.seeded_sameCounters a, s.seeded_innerStep a⟩

end Sys2Proof.Machine
end

section
/-!
PROOFS. The Block Mixer's micro-operations (42_block_mixer.md R150 to R153). The idea: a micro-operation
other than FIN writes the working state and the record of reads and nothing else, so its frame is an
equation between two states with that part erased; what is left of each proof is its own assignments.
-/

namespace Sys2Proof.Machine

/-! ### The frame of a micro-operation -/

/-- The state with its working state and its record of reads erased. -/
def State.withoutWork (s : State) : State := { s.discardWork with reads := [] }

section WithoutWork
variable (s : State)

@[simp] theorem State.noteRead_withoutWork (a : Quad) : (s.noteRead a).withoutWork = s.withoutWork := rfl
@[simp] theorem State.setLane_withoutWork (i : LaneNo) (v : Lane) :
    (s.setLane i v).withoutWork = s.withoutWork := rfl
@[simp] theorem State.goto_withoutWork (t : UAddr) : (s.goto t).withoutWork = s.withoutWork := rfl
@[simp] theorem State.advance_withoutWork : s.advance.withoutWork = s.withoutWork := rfl
@[simp] theorem State.setIw_withoutWork (v : Lane) : (s.setIw v).withoutWork = s.withoutWork := rfl
@[simp] theorem State.setIx_withoutWork (v : Lane) : (s.setIx v).withoutWork = s.withoutWork := rfl
@[simp] theorem State.setIy_withoutWork (v : Lane) : (s.setIy v).withoutWork = s.withoutWork := rfl
@[simp] theorem State.setIz_withoutWork (v : Lane) : (s.setIz v).withoutWork = s.withoutWork := rfl
@[simp] theorem State.setPtr_withoutWork (v : Quad) : (s.setPtr v).withoutWork = s.withoutWork := rfl
@[simp] theorem State.setBlkcnt_withoutWork (v : BitVec 56) :
    (s.setBlkcnt v).withoutWork = s.withoutWork := rfl
@[simp] theorem State.setChcnt_withoutWork (v : BitVec 3) : (s.setChcnt v).withoutWork = s.withoutWork := rfl

end WithoutWork

/-- Flags, host registers and everything outside the block stand beside the working state, so they agree
in two states that agree beside it. -/
theorem innerStep_of_withoutWork_eq {s t : State} (h : t.withoutWork = s.withoutWork) : InnerStep s t where
  flags := ⟨(congrArg State.busy h :), (congrArg State.done h :), (congrArg State.err h :),
    (congrArg State.errCode h :)⟩
  hostRegs := ⟨(congrArg State.seedAddr h :), (congrArg State.seedLen h :), (congrArg State.dataAddr h :),
    (congrArg State.dataLen h :), (congrArg State.digest h :)⟩
  outside := ⟨fun a => (congrArg (State.byteAt · a) h :), fun a => (congrArg (State.readable · a) h :),
    (congrArg State.rom h :), (congrArg State.script h :), (congrArg State.answers h :)⟩

theorem SameLanesOutside.of_lanes_eq {s t : State} (h : t.lanes = s.lanes) (ls : List LaneNo) :
    SameLanesOutside ls s t := fun j _ => congrArg (fun l : Vector Lane 8 => l[j.toNat]'j.isLt) h

/-- An assignment to a lane of the list keeps the lanes outside the list. -/
theorem SameLanesOutside.setLane {ls : List LaneNo} {s t : State} (h : SameLanesOutside ls s t) {i : LaneNo}
    (hi : i ∈ ls) (v : Lane) : SameLanesOutside ls s (t.setLane i v) := fun j hj =>
  (t.setLane_lane_ne v (ne_of_mem_of_not_mem hi hj).symm).trans (h j hj)

/-- `x[i] <- v` in the state is the same assignment on the lanes as a function. -/
theorem State.setLane_lane_eq_updLane (s : State) (i : LaneNo) (v : Lane) :
    (s.setLane i v).lane = updLane s.lane i v := funext fun j => s.setLane_lane i j v

/-! ### JMP (R153) -/

theorem encode_jmp (t : UAddr) : encode (.jmp t) = 0x50000000#32 ||| t.setWidth 32 := by
  rw [encode, putField_at_zero]

theorem exec_jmp (t : UAddr) (s : State) : exec (.jmp t) s = .next (s.goto t) := rfl

theorem State.goto_innerStep (s : State) (t : UAddr) : InnerStep s (s.goto t) :=
  innerStep_of_withoutWork_eq (s.goto_withoutWork t)

/-- Settles O20: the jump is one assignment to `pc`. -/
theorem jmpGoesToItsTarget : Obligations.JmpGoesToItsTarget := fun target s =>
  ⟨encode_jmp target, s.goto target, exec_jmp target s, s.goto_pc target, s.goto_reads target,
    .of_lanes_eq (s.goto_lanes target) [], ⟨rfl, rfl, rfl, rfl⟩, ⟨rfl, rfl, rfl⟩, s.goto_innerStep target⟩

/-! ### BLK (R150) -/

theorem encode_blk (t : UAddr) : encode (.blk t) = 0x20000000#32 ||| t.setWidth 32 := by
  rw [encode, putField_at_zero]

/-- The state after `BLK` when a block is left: one block fewer, the next micro-operation. -/
def State.blockCounted (s : State) : State := (s.setBlkcnt (s.blkcnt - 1#56)).advance

theorem exec_blk_zero {s : State} (h : s.blkcnt = 0#56) (t : UAddr) : exec (.blk t) s = .next (s.goto t) :=
  if_pos h

theorem exec_blk_nonzero {s : State} (h : s.blkcnt ≠ 0#56) (t : UAddr) :
    exec (.blk t) s = .next s.blockCounted :=
  if_neg h

/-- A count that is not 0 is decremented without a wrap. -/
theorem State.blockCounted_blkcnt_toNat {s : State} (h : s.blkcnt ≠ 0#56) :
    s.blockCounted.blkcnt.toNat = s.blkcnt.toNat - 1 := by
  simp only [State.blockCounted, State.advance_blkcnt, State.setBlkcnt_blkcnt]
  bv_omega

theorem State.blockCounted_innerStep (s : State) : InnerStep s s.blockCounted :=
  innerStep_of_withoutWork_eq (by simp [State.blockCounted])

/-- Settles O17, one case for each branch of the pseudocode. -/
theorem blkBranchesOrCountsDown : Obligations.BlkBranchesOrCountsDown := by
  refine fun target s => ⟨encode_blk target, ?_⟩
  by_cases h : s.blkcnt = 0#56
  · exact ⟨s.goto target, exec_blk_zero h target, fun _ => ⟨s.goto_pc target, h⟩, fun hne => absurd h hne,
      rfl, rfl, rfl, .of_lanes_eq (s.goto_lanes target) [], ⟨rfl, rfl, rfl, rfl⟩, s.goto_innerStep target⟩
  · exact ⟨s.blockCounted, exec_blk_nonzero h target, fun heq => absurd heq h,
      fun _ => ⟨rfl, State.blockCounted_blkcnt_toNat h⟩,
      rfl, rfl, rfl, .of_lanes_eq rfl [], ⟨rfl, rfl, rfl, rfl⟩, s.blockCounted_innerStep⟩

/-! ### LDC (R151) -/

theorem exec_ldc (s : State) : exec .ldc s = execLdc s := rfl

section ChunkLoaded
variable (s : State)

theorem State.chunkLoaded_iw : s.chunkLoaded.iw = s.window (s.ptr + 15#64) := by
  simp [State.chunkLoaded]

theorem State.chunkLoaded_ix : s.chunkLoaded.ix = s.window s.ptr := by
  simp [State.chunkLoaded]

theorem State.chunkLoaded_iy : s.chunkLoaded.iy = s.window (s.ptr + 1#64) := by
  simp [State.chunkLoaded]

theorem State.chunkLoaded_iz : s.chunkLoaded.iz = s.window (s.ptr + 16#64) := by
  simp [State.chunkLoaded]

theorem State.chunkLoaded_ptr : s.chunkLoaded.ptr = s.ptr + 32#64 := by
  simp [State.chunkLoaded]

theorem State.chunkLoaded_pc : s.chunkLoaded.pc = s.pc + 1#7 := by
  simp [State.chunkLoaded]

theorem State.chunkLoaded_lanes : s.chunkLoaded.lanes = s.lanes := by
  simp [State.chunkLoaded]

theorem State.chunkLoaded_blkcnt : s.chunkLoaded.blkcnt = s.blkcnt := by
  simp [State.chunkLoaded]

theorem State.chunkLoaded_chcnt : s.chunkLoaded.chcnt = s.chcnt := by
  simp [State.chunkLoaded]

/-- The four reads are recorded in the order in which they are issued. -/
theorem State.chunkLoaded_reads :
    s.chunkLoaded.reads = s.reads ++ [s.ptr + 15#64, s.ptr, s.ptr + 1#64, s.ptr + 16#64] := by
  simp [State.chunkLoaded]

theorem State.chunkLoaded_innerStep : InnerStep s s.chunkLoaded :=
  innerStep_of_withoutWork_eq (by simp [State.chunkLoaded])

end ChunkLoaded

/-- Settles O18: with its four windows readable LDC answers the loaded chunk, and at each read that can be
the first unreadable one it stops. -/
theorem ldcLoadsTheChunkAtPtr : Obligations.LdcLoadsTheChunkAtPtr := by
  refine ⟨rfl, fun s => ⟨fun hw hx hy hz => ?_, fun hw => ?_, fun hw hx => ?_, fun hw hx hy hz => ?_⟩⟩
  · have hnext : exec .ldc s = .next s.chunkLoaded := (exec_ldc s).trans (execLdc_readable ⟨hw, hx, hy, hz⟩)
    have hptr : s.chunkLoaded.ptr.toNat = (s.ptr.toNat + 32) % 2 ^ 64 := by
      rw [State.chunkLoaded_ptr, BitVec.toNat_add, BitVec.toNat_ofNat]
    exact ⟨s.chunkLoaded, hnext, s.chunkLoaded_iw, s.chunkLoaded_ix, s.chunkLoaded_iy, s.chunkLoaded_iz, hptr,
      s.chunkLoaded_pc, s.chunkLoaded_reads, s.chunkLoaded_blkcnt, s.chunkLoaded_chcnt,
      .of_lanes_eq s.chunkLoaded_lanes [], s.chunkLoaded_innerStep⟩
  · exact (exec_ldc s).trans (execLdc_unreadable_w hw)
  · exact (exec_ldc s).trans (execLdc_unreadable_x hw hx)
  · exact (exec_ldc s).trans (execLdc_unreadable_z hw hx hy hz)

/-! ### MIX (R152) -/

theorem encode_mix (a b c d e : LaneNo) :
    encode (.mix a b c d e) = 0x40000000#32 ||| (e.setWidth 32 <<< 12) ||| (d.setWidth 32 <<< 9) |||
      (c.setWidth 32 <<< 6) ||| (b.setWidth 32 <<< 3) ||| a.setWidth 32 := by
  rw [encode, putField_at_zero]
  rfl

section MixLanes
variable (a b c d e : LaneNo) (s : State)

theorem exec_mix : exec (.mix a b c d e) s = .next (mixLanes a b c d e s).advance := rfl

theorem mixLanes_sameLanesOutside : SameLanesOutside [a, b, c, d, e] s (mixLanes a b c d e s) := by
  have h0 : SameLanesOutside [a, b, c, d, e] s s := .of_lanes_eq rfl _
  have ha : a ∈ [a, b, c, d, e] := by simp
  have hb : b ∈ [a, b, c, d, e] := by simp
  have hc : c ∈ [a, b, c, d, e] := by simp
  have hd : d ∈ [a, b, c, d, e] := by simp
  have he : e ∈ [a, b, c, d, e] := by simp
  exact (((((h0.setLane ha _).setLane hc _).setLane hb _).setLane hb _).setLane he _).setLane hd _

theorem mixLanes_advance_innerStep : InnerStep s (mixLanes a b c d e s).advance :=
  innerStep_of_withoutWork_eq (by simp [mixLanes])

end MixLanes

/-- Settles O19: an assignment to a lane is the same assignment on the lanes as a function, whichever of the
five lanes are equal, and none of the six writes an injection register that a later one reads. -/
theorem mixMakesSixAssignments : Obligations.MixMakesSixAssignments := by
  refine fun a b c d e s => ⟨encode_mix a b c d e, (mixLanes a b c d e s).advance, exec_mix a b c d e s,
    fun j => ?_, rfl, rfl,
    mixLanes_sameLanesOutside a b c d e s, ⟨rfl, rfl, rfl, rfl⟩, ⟨rfl, rfl, rfl⟩,
    mixLanes_advance_innerStep a b c d e s⟩
  simp only [State.advance_lane, mixLanes, xor128, State.setLane_lane_eq_updLane, State.setLane_iw,
    State.setLane_ix, State.setLane_iy, State.setLane_iz]

end Sys2Proof.Machine
end

section
/-!
PROOFS. The Tail Handler's micro-operations (43_tail_processor.md R170 to R174). The idea: for each
micro-operation the state it answers has a name and its assignments are lemmas; the page test of LDP and its
shift are the model's own, once the masks `& 0xF` are read as remainders by 16.
-/

namespace Sys2Proof.Machine

/-! ### LDP (R170) -/

theorem exec_ldp (s : State) : exec .ldp s = execLdp s := rfl

/-- `Align` as a number: the mask takes the remainder by 16. -/
theorem alignOf_eq (addr len : Quad) :
    alignOf addr len =
      if (lastAddr addr len).toNat + 15 > (lastPageEnd addr len).toNat then (lastAddr addr len).toNat % 16
      else 0 := by
  rw [← tailLenOf_eq (lastAddr addr len)]
  simp only [alignOf, crossesPage, decide_eq_true_eq, tailLenOf]

/-- The bytes `LDP` makes of a window: rotated by `Align`, and 0 from `tailLen` on. -/
theorem byteOf_partialOf_window (s : State) (a addr len : Quad) {i : Nat} (hi : i < 16) :
    byteOf (partialOf addr len (s.window a)) i =
      if i < tailLenOf len then s.byteAt (a + BitVec.ofNat 64 ((i + alignOf addr len) % 16)) else 0#8 := by
  have hpos : (i + alignOf addr len) % 16 < 16 := Nat.mod_lt _ (by decide)
  rw [partialOf, byteOf_maskbytes _ _ hi, byteOf_rotbytes _ _ hi, byteOf_window s a hpos]

/-- The state after `LDP` when there is no partial. -/
def State.partialCleared (s : State) : State := ((s.setIx 0#128).setIz 0#128).advance

/-- The state after `LDP` when there is a partial and its window can be read. -/
def State.partialLoaded (s : State) : State :=
  ((((s.setIx 0#128).setIz 0#128).noteRead (partialAddr s.dataAddr s.dataLen)).setIx
    (partialOf s.dataAddr s.dataLen (s.window (partialAddr s.dataAddr s.dataLen)))).advance

section Partial
variable (s : State)

theorem State.partialCleared_ix : s.partialCleared.ix = 0#128 := by
  simp [State.partialCleared]

theorem State.partialCleared_iz : s.partialCleared.iz = 0#128 := by
  simp [State.partialCleared]

theorem State.partialCleared_innerStep : InnerStep s s.partialCleared :=
  innerStep_of_withoutWork_eq (by simp [State.partialCleared])

theorem State.partialLoaded_ix :
    s.partialLoaded.ix = partialOf s.dataAddr s.dataLen (s.window (partialAddr s.dataAddr s.dataLen)) := by
  simp [State.partialLoaded]

theorem State.partialLoaded_iz : s.partialLoaded.iz = 0#128 := by
  simp [State.partialLoaded]

theorem State.partialLoaded_reads : s.partialLoaded.reads = s.reads ++ [partialAddr s.dataAddr s.dataLen] := by
  simp [State.partialLoaded]

theorem State.partialLoaded_innerStep : InnerStep s s.partialLoaded :=
  innerStep_of_withoutWork_eq (by simp [State.partialLoaded])

end Partial

theorem exec_ldp_whole {s : State} (h : tailLenOf s.dataLen = 0) : exec .ldp s = .next s.partialCleared :=
  (exec_ldp s).trans (execLdp_whole h)

theorem exec_ldp_readable {s : State} (h : tailLenOf s.dataLen ≠ 0)
    (hread : s.windowReadable (partialAddr s.dataAddr s.dataLen) = true) :
    exec .ldp s = .next s.partialLoaded :=
  (exec_ldp s).trans (execLdp_partial h hread)

/-- Settles O21: the statement's length, shift and address are those of the model; then one case for each
way through the pseudocode. -/
theorem ldpLoadsThePartial : Obligations.LdpLoadsThePartial := by
  refine ⟨rfl, fun s => ?_⟩
  intro tailLen aLast pageLast shift addr
  have htail : tailLenOf s.dataLen = tailLen := tailLenOf_eq s.dataLen
  have hshift : alignOf s.dataAddr s.dataLen = shift := alignOf_eq s.dataAddr s.dataLen
  have haddr : partialAddr s.dataAddr s.dataLen = addr := by rw [partialAddr, hshift]; rfl
  rw [← htail, ← hshift, ← haddr]
  refine ⟨fun hwhole => ?_, fun hpart hread => ?_, fun hpart hread => ?_⟩
  · exact ⟨s.partialCleared, exec_ldp_whole hwhole, s.partialCleared_ix, s.partialCleared_iz, rfl, rfl, rfl, rfl,
      .of_lanes_eq rfl [], ⟨rfl, rfl, rfl⟩, s.partialCleared_innerStep⟩
  · refine ⟨s.partialLoaded, exec_ldp_readable hpart hread, fun i hi => ?_, s.partialLoaded_iz, rfl, rfl, rfl,
      s.partialLoaded_reads, .of_lanes_eq rfl [], ⟨rfl, rfl, rfl⟩, s.partialLoaded_innerStep⟩
    rw [s.partialLoaded_ix, byteOf_partialOf_window s _ _ _ hi]
  · exact (exec_ldp s).trans (execLdp_unreadable hpart hread)

/-! ### LDF (R171) -/

theorem exec_ldf (s : State) : exec .ldf s = execLdf s := rfl

/-- The state after `LDF` when `L[4] = 1` and its window can be read. -/
def State.residualLoaded (s : State) : State :=
  (((s.setIz s.ix).noteRead (lastAddr s.dataAddr s.dataLen - 16#64)).setIx
    (s.window (lastAddr s.dataAddr s.dataLen - 16#64))).advance

section ResidualLoaded
variable (s : State)

theorem State.residualLoaded_iz : s.residualLoaded.iz = s.ix := by
  simp [State.residualLoaded]

theorem State.residualLoaded_ix :
    s.residualLoaded.ix = s.window (lastAddr s.dataAddr s.dataLen - 16#64) := by
  simp [State.residualLoaded]

theorem State.residualLoaded_reads :
    s.residualLoaded.reads = s.reads ++ [lastAddr s.dataAddr s.dataLen - 16#64] := by
  simp [State.residualLoaded]

theorem State.residualLoaded_innerStep : InnerStep s s.residualLoaded :=
  innerStep_of_withoutWork_eq (by simp [State.residualLoaded])

end ResidualLoaded

theorem exec_ldf_readable {s : State} (h : full16Of s.dataLen = true)
    (hread : s.windowReadable (lastAddr s.dataAddr s.dataLen - 16#64) = true) :
    exec .ldf s = .next s.residualLoaded :=
  (exec_ldf s).trans (execLdf_full h hread)

theorem exec_ldf_short {s : State} (h : full16Of s.dataLen = false) : exec .ldf s = .next s.advance :=
  (exec_ldf s).trans (execLdf_short h)

/-- Settles O22, one case for each way through the pseudocode; `IZ` takes the `IX` of before the read. -/
theorem ldfMovesThePartialAndLoads : Obligations.LdfMovesThePartialAndLoads := by
  refine ⟨rfl, fun s => ⟨fun hfull hread => ?_, fun hfull hread => ?_, fun hshort => ?_⟩⟩
  · exact ⟨s.residualLoaded, exec_ldf_readable hfull hread, s.residualLoaded_iz, s.residualLoaded_ix, rfl, rfl, rfl,
      s.residualLoaded_reads, .of_lanes_eq rfl [], ⟨rfl, rfl, rfl⟩, s.residualLoaded_innerStep⟩
  · exact (exec_ldf s).trans (execLdf_unreadable hfull hread)
  · exact ⟨s.advance, exec_ldf_short hshort, rfl, s.advance_reads, .of_lanes_eq s.advance_lanes [],
      ⟨rfl, rfl, rfl, rfl⟩, ⟨rfl, rfl, rfl⟩, s.advance_innerStep⟩

/-! ### INJ (R172) -/

/-- The state after `INJ`. -/
def State.injectionAligned (s : State) : State :=
  ((s.setIw (align s.iz s.ix 15)).setIy (align s.iz s.ix 1)).advance

theorem exec_inj (s : State) : exec .inj s = .next s.injectionAligned := rfl

/-- A byte of `align` that the first operand still holds. -/
theorem byteOf_align_left (p q : Lane) {k i : Nat} (h : k + i < 16) :
    byteOf (align p q k) i = byteOf p (k + i) := by
  rw [byteOf_align p q k (by omega), if_pos h]

/-- A byte of `align` that comes from the second operand. -/
theorem byteOf_align_right (p q : Lane) {k i : Nat} (hi : i < 16) (h : 16 ≤ k + i) :
    byteOf (align p q k) i = byteOf q (k + i - 16) := by
  rw [byteOf_align p q k hi, if_neg (by omega)]

section InjectionAligned
variable (s : State)

theorem State.injectionAligned_iw : s.injectionAligned.iw = align s.iz s.ix 15 := by
  simp [State.injectionAligned]

theorem State.injectionAligned_iy : s.injectionAligned.iy = align s.iz s.ix 1 := by
  simp [State.injectionAligned]

theorem State.injectionAligned_innerStep : InnerStep s s.injectionAligned :=
  innerStep_of_withoutWork_eq (by simp [State.injectionAligned])

end InjectionAligned

/-- Settles O23: of the 32 bytes of `IZ` and `IX`, `IW` starts at byte 15 and `IY` at byte 1. -/
theorem injAlignsIzBeforeIx : Obligations.InjAlignsIzBeforeIx := by
  refine ⟨rfl, fun s => ⟨s.injectionAligned, exec_inj s, ?_⟩⟩
  rw [s.injectionAligned_iw, s.injectionAligned_iy]
  refine ⟨byteOf_align_left _ _ (by decide), fun i hi => ?_, fun i hi => ?_,
    byteOf_align_right _ _ (by decide) (by decide), rfl, rfl, rfl, rfl, .of_lanes_eq rfl [], ⟨rfl, rfl, rfl⟩,
    s.injectionAligned_innerStep⟩
  · rw [byteOf_align_right _ _ (by omega) (by omega), show 15 + (i + 1) - 16 = i by omega]
  · rw [byteOf_align_left _ _ (by omega), Nat.add_comm]

/-! ### LENV (R173) -/

/-- The state after `LENV`. -/
def State.lengthLoaded (s : State) : State :=
  ((s.setIx 0#128).setIz (s.dataLen.setWidth 128)).advance

theorem exec_lenv (s : State) : exec .lenv s = .next s.lengthLoaded := rfl

section LengthLoaded
variable (s : State)

theorem State.lengthLoaded_ix : s.lengthLoaded.ix = 0#128 := by
  simp [State.lengthLoaded]

/-- The zero-extension keeps all 64 bits of the length. -/
theorem State.lengthLoaded_iz_toNat : s.lengthLoaded.iz.toNat = s.dataLen.toNat := by
  simp only [State.lengthLoaded, State.advance_iz, State.setIz_iz]
  exact BitVec.toNat_setWidth_of_le (by decide)

theorem State.lengthLoaded_innerStep : InnerStep s s.lengthLoaded :=
  innerStep_of_withoutWork_eq (by simp [State.lengthLoaded])

end LengthLoaded

/-- Settles O24: no branch and no read, so one state is answered whatever the length. -/
theorem lenvLoadsTheLength : Obligations.LenvLoadsTheLength :=
  ⟨rfl, fun s => ⟨s.lengthLoaded, exec_lenv s, s.lengthLoaded_ix, s.lengthLoaded_iz_toNat, rfl, rfl, rfl, rfl,
    .of_lanes_eq rfl [], ⟨rfl, rfl, rfl⟩, s.lengthLoaded_innerStep⟩⟩

/-! ### CHK (R174) -/

theorem encode_chk (t : UAddr) : encode (.chk t) = 0xA0000000#32 ||| t.setWidth 32 := by
  rw [encode, putField_at_zero]

/-- The state after `CHK` when a chunk is left: one chunk fewer, the next micro-operation. -/
def State.chunkCounted (s : State) : State := (s.setChcnt (s.chcnt - 1#3)).advance

theorem exec_chk_zero {s : State} (h : s.chcnt = 0#3) (t : UAddr) : exec (.chk t) s = .next (s.goto t) :=
  if_pos h

theorem exec_chk_nonzero {s : State} (h : s.chcnt ≠ 0#3) (t : UAddr) :
    exec (.chk t) s = .next s.chunkCounted :=
  if_neg h

/-- A count that is not 0 is decremented without a wrap. -/
theorem State.chunkCounted_chcnt_toNat {s : State} (h : s.chcnt ≠ 0#3) :
    s.chunkCounted.chcnt.toNat = s.chcnt.toNat - 1 := by
  simp only [State.chunkCounted, State.advance_chcnt, State.setChcnt_chcnt]
  bv_omega

theorem State.chunkCounted_innerStep (s : State) : InnerStep s s.chunkCounted :=
  innerStep_of_withoutWork_eq (by simp [State.chunkCounted])

/-- Settles O25, one case for each branch of the pseudocode. -/
theorem chkBranchesOrCountsDown : Obligations.ChkBranchesOrCountsDown := by
  refine fun target s => ⟨encode_chk target, ?_⟩
  by_cases h : s.chcnt = 0#3
  · exact ⟨s.goto target, exec_chk_zero h target, fun _ => ⟨s.goto_pc target, h⟩, fun hne => absurd h hne,
      rfl, rfl, rfl, .of_lanes_eq (s.goto_lanes target) [], ⟨rfl, rfl, rfl, rfl⟩, s.goto_innerStep target⟩
  · exact ⟨s.chunkCounted, exec_chk_nonzero h target, fun heq => absurd heq h,
      fun _ => ⟨rfl, State.chunkCounted_chcnt_toNat h⟩,
      rfl, rfl, rfl, .of_lanes_eq rfl [], ⟨rfl, rfl, rfl, rfl⟩, s.chunkCounted_innerStep⟩

end Sys2Proof.Machine
end

section
/-!
PROOFS. The Reducer's micro-operations (44_reducer.md R200 to R203). The idea: SHUF, ADDQ and XORV are lane
assignments followed by the advance of `pc`, so their frame is the frame of a lane assignment; FIN writes the
rest of the block's state, and keeps what none of its three updates names.
-/

namespace Sys2Proof.Machine

/-! ### SHUF (R200) -/

theorem encode_shuf (a b c d e f : LaneNo) :
    encode (.shuf a b c d e f) = 0xB0000000#32 ||| (f.setWidth 32 <<< 15) ||| (e.setWidth 32 <<< 12) |||
      (d.setWidth 32 <<< 9) ||| (c.setWidth 32 <<< 6) ||| (b.setWidth 32 <<< 3) ||| a.setWidth 32 := by
  rw [encode, putField_at_zero]
  rfl

section ShufLanes
variable (a b c d e f : LaneNo) (s : State)

theorem exec_shuf : exec (.shuf a b c d e f) s = .next (shufLanes a b c d e f s).advance := rfl

/-- `x[c]` and `x[f]` are read and never written. -/
theorem shufLanes_sameLanesOutside : SameLanesOutside [a, b, d, e] s (shufLanes a b c d e f s) := by
  have h0 : SameLanesOutside [a, b, d, e] s s := .of_lanes_eq rfl _
  have ha : a ∈ [a, b, d, e] := by simp
  have hb : b ∈ [a, b, d, e] := by simp
  have hd : d ∈ [a, b, d, e] := by simp
  have he : e ∈ [a, b, d, e] := by simp
  exact (((((h0.setLane ha _).setLane hb _).setLane hd _).setLane hd _).setLane he _).setLane hb _

theorem shufLanes_advance_innerStep : InnerStep s (shufLanes a b c d e f s).advance :=
  innerStep_of_withoutWork_eq (by simp [shufLanes])

end ShufLanes

/-- Settles O26: an assignment to a lane is the same assignment on the lanes as a function, whichever of the
six lanes are equal. -/
theorem shufMakesSixAssignments : Obligations.ShufMakesSixAssignments := by
  refine fun a b c d e f s => ⟨encode_shuf a b c d e f, (shufLanes a b c d e f s).advance,
    exec_shuf a b c d e f s, fun j => ?_, rfl, rfl,
    shufLanes_sameLanesOutside a b c d e f s, ⟨rfl, rfl, rfl, rfl⟩, ⟨rfl, rfl, rfl⟩,
    shufLanes_advance_innerStep a b c d e f s⟩
  simp only [State.advance_lane, shufLanes, xor128, State.setLane_lane_eq_updLane]

/-! ### One lane assignment: ADDQ (R201) and XORV (R202) -/

/-- The state after a micro-operation that is the assignment `x[a] <- v`. -/
def State.laneAssigned (s : State) (a : LaneNo) (v : Lane) : State := (s.setLane a v).advance

section LaneAssigned
variable (s : State) (a : LaneNo) (v : Lane)

theorem State.laneAssigned_lane_self : (s.laneAssigned a v).lane a = v := by
  simp [State.laneAssigned]

theorem State.laneAssigned_pc : (s.laneAssigned a v).pc = s.pc + 1#7 := by
  simp [State.laneAssigned]

theorem State.laneAssigned_reads : (s.laneAssigned a v).reads = s.reads := by
  simp [State.laneAssigned]

theorem State.laneAssigned_sameLanesOutside : SameLanesOutside [a] s (s.laneAssigned a v) :=
  s.setLane_sameLanesOutside a v

theorem State.laneAssigned_sameInjection : SameInjection s (s.laneAssigned a v) := ⟨rfl, rfl, rfl, rfl⟩

theorem State.laneAssigned_sameCounters : SameCounters s (s.laneAssigned a v) := ⟨rfl, rfl, rfl⟩

theorem State.laneAssigned_innerStep : InnerStep s (s.laneAssigned a v) :=
  (s.setLane_innerStep a v).trans (State.advance_innerStep _)

end LaneAssigned

theorem encode_addq (a b : LaneNo) :
    encode (.addq a b) = 0xC0000000#32 ||| (b.setWidth 32 <<< 3) ||| a.setWidth 32 := by
  rw [encode, putField_at_zero]
  rfl

theorem exec_addq (a b : LaneNo) (s : State) :
    exec (.addq a b) s = .next (s.laneAssigned a (add64x2 (s.lane a) (s.lane b))) := rfl

/-- Settles O28: both operands are read before the assignment, so `a = b` is no case of its own. -/
theorem addqAddsTwoLanes : Obligations.AddqAddsTwoLanes := by
  refine fun a b s => ⟨encode_addq a b, _, exec_addq a b s, ?_, ?_, s.laneAssigned_pc a _,
    s.laneAssigned_reads a _, s.laneAssigned_sameLanesOutside a _, s.laneAssigned_sameInjection a _,
    s.laneAssigned_sameCounters a _, s.laneAssigned_innerStep a _⟩
  · rw [s.laneAssigned_lane_self]
    exact quadLo_add64x2 _ _
  · rw [s.laneAssigned_lane_self]
    exact quadHi_add64x2 _ _

theorem encode_xorv (a b : LaneNo) :
    encode (.xorv a b) = 0xD0000000#32 ||| (b.setWidth 32 <<< 3) ||| a.setWidth 32 := by
  rw [encode, putField_at_zero]
  rfl

theorem exec_xorv (a b : LaneNo) (s : State) :
    exec (.xorv a b) s = .next (s.laneAssigned a (s.lane a ^^^ s.lane b)) := rfl

/-- Settles O29: `XORV a,a` clears the lane because a value xored with itself is 0. -/
theorem xorvXorsTwoLanes : Obligations.XorvXorsTwoLanes := by
  refine fun a b s => ⟨encode_xorv a b, _, exec_xorv a b s, s.laneAssigned_lane_self a _, fun hab => ?_,
    s.laneAssigned_pc a _, s.laneAssigned_reads a _, s.laneAssigned_sameLanesOutside a _,
    s.laneAssigned_sameInjection a _, s.laneAssigned_sameCounters a _, s.laneAssigned_innerStep a _⟩
  rw [s.laneAssigned_lane_self, hab, BitVec.xor_self]

/-! ### FIN (R203) -/

theorem State.discardWork_cleared (s : State) : s.discardWork.Cleared where
  lanes := s.discardWork_lane
  pc := s.discardWork_pc
  iw := s.discardWork_iw
  ix := s.discardWork_ix
  iy := s.discardWork_iy
  iz := s.discardWork_iz
  ptr := s.discardWork_ptr
  blkcnt := s.discardWork_blkcnt
  chcnt := s.discardWork_chcnt

/-- The flags are no part of the working state. -/
theorem State.Cleared.finishFlags {s : State} (h : s.Cleared) : s.finishFlags.Cleared :=
  ⟨h.lanes, h.iw, h.ix, h.iy, h.iz, h.ptr, h.blkcnt, h.chcnt, h.pc⟩

/-- The state after `FIN`. -/
def State.finished (s : State) : State := (s.setDigest (s.lane 0#3)).discardWork.finishFlags

theorem exec_fin (s : State) : exec .fin s = .next s.finished := rfl

section Finished
variable (s : State)

/-- The digest is taken before the lanes are cleared, and the clearing keeps it. -/
theorem State.finished_digest : s.finished.digest = s.lane 0 := by
  simp [State.finished]

theorem State.finished_cleared : s.finished.Cleared :=
  (State.discardWork_cleared _).finishFlags

theorem State.finished_sameOutside : SameOutside s s.finished where
  byteAt a := by simp [State.finished]
  readable a := by simp [State.finished]
  rom := by simp [State.finished]
  script := by simp [State.finished]
  answers := by simp [State.finished]

end Finished

/-- Settles O30: one state is answered from every state, and the fields that FIN keeps are the ones that
none of its three updates writes. -/
theorem finDeliversTheDigest : Obligations.FinDeliversTheDigest :=
  ⟨rfl, fun s => ⟨s.finished, exec_fin s, s.finished_digest, s.finished_cleared, rfl, rfl, rfl, rfl,
    rfl, rfl, rfl, rfl, rfl, s.finished_sameOutside⟩⟩

end Sys2Proof.Machine
end

section
/-!
PROOFS. The micro-program against the schedules (45_sequencer_and_host.md R221). The idea: the ROM words are
the encoded listing, so the decoder gives the listing back by the round trip of R86, and beyond the listing a
word is 0, whose opcode no row has.
-/

namespace Sys2Proof.Machine

/-- The ROM word at `k`: the table's, and 0 beyond the table. -/
theorem microProgram_getElem {k : Nat} (hk : k < 128) : microProgram[k] = romWords.getD k 0#32 := by
  simp [microProgram]

/-- The table of R221 is the encoding of the schedules, word for word. -/
theorem romWords_eq_map_encode : romWords = listing.map encode := by decide

theorem listing_length : listing.length = 74 := by decide

theorem romWords_length : romWords.length = 74 := by
  rw [romWords_eq_map_encode, List.length_map, listing_length]

theorem microProgram_of_listing {k : Nat} (hk : k < 128) {i : Instr} (hi : listing[k]? = some i) :
    microProgram[k] = encode i := by
  rw [microProgram_getElem hk, romWords_eq_map_encode, List.getD_eq_getElem?_getD, List.getElem?_map, hi]
  rfl

theorem microProgram_beyond_listing {k : Nat} (hk : k < 128) (h : 74 ≤ k) : microProgram[k] = 0#32 := by
  rw [microProgram_getElem hk]
  exact List.getD_eq_default _ _ (romWords_length.trans_le h)

/-- The word that fills the end of the ROM is illegal by its opcode. -/
theorem decode_zero : decode 0#32 = .error .opcode := decode_noRow (.inl rfl)

/-- Settles O5: inside the listing by decoding what was encoded, beyond it by the opcode of the word 0. -/
theorem microProgramDecodesToTheSchedules : Obligations.MicroProgramDecodesToTheSchedules := by
  refine ⟨listing_length, fun k hk i hi => ?_, fun k hk h => ?_⟩
  · rw [microProgram_of_listing hk hi, decode_encode]
  · rw [microProgram_beyond_listing hk h]
    exact ⟨rfl, decode_zero⟩

end Sys2Proof.Machine
end

section
/-!
PROOFS. The host's commands and registers (45_sequencer_and_host.md R224, R226 to R228). A write of an idle
block is one of the model's named updates; a command writes the status, `pc`, `PTR` and the counters, so its
frame is an equation between the parts of two states that are left beside these.
-/

namespace Sys2Proof.Machine

/-! ### Writes of an idle block (R228) -/

section IdleWrite
variable {s : State} (hidle : s.busy = false) (v : Quad)
include hidle

theorem hostAct_write_ctrl : hostAct (.write .ctrl v) s = ctrlWrite v s := by
  simp [hostAct_write, hostWrite, hidle]

theorem hostAct_write_seedAddr : hostAct (.write .seedAddr v) s = .next (s.setSeedAddr v) := by
  simp [hostAct_write, hostWrite, hidle]

theorem hostAct_write_seedLen : hostAct (.write .seedLen v) s = .next (s.setSeedLen v) := by
  simp [hostAct_write, hostWrite, hidle]

theorem hostAct_write_dataAddr : hostAct (.write .dataAddr v) s = .next (s.setDataAddr v) := by
  simp [hostAct_write, hostWrite, hidle]

theorem hostAct_write_dataLen : hostAct (.write .dataLen v) s = .next (s.setDataLen v) := by
  simp [hostAct_write, hostWrite, hidle]

theorem hostAct_write_readOnly {r : HostReg} (hr : r = .status ∨ r = .digestLo ∨ r = .digestHi) :
    hostAct (.write r v) s = .next s := by
  rcases hr with rfl | rfl | rfl <;> simp [hostAct_write, hostWrite, hidle]

end IdleWrite

/-! ### The value written to CTRL (R29) -/

section Ctrl
variable {v : Quad} (s : State)

theorem ctrlWrite_start (h0 : v.getLsbD 0 = true) : ctrlWrite v s = startCommand s := if_pos h0

theorem ctrlWrite_clr (h0 : v.getLsbD 0 = false) (h1 : v.getLsbD 1 = true) : ctrlWrite v s = clrCommand s := by
  rw [ctrlWrite, h0, h1]
  rfl

theorem ctrlWrite_none (h0 : v.getLsbD 0 = false) (h1 : v.getLsbD 1 = false) : ctrlWrite v s = .next s := by
  rw [ctrlWrite, h0, h1]
  rfl

end Ctrl

/-! ### The commands (R224, R226) -/

theorem clrCommand_eq (s : State) : clrCommand s = .next s.clearStatus := rfl

theorem startCommand_reject {s : State} (h : s.seedLen ≠ 128#64) :
    startCommand s = .next s.clearStatus.raiseInvalidSeedLength := if_pos h

/-- The precondition of R57, with its constants. -/
theorem State.objectsFit_iff (s : State) :
    s.objectsFit = true ↔
      s.seedAddr.toNat + 128 ≤ 2 ^ 64 ∧ s.dataAddr.toNat + s.dataLen.toNat ≤ 2 ^ 64 := by
  rw [State.objectsFit, Bool.and_eq_true, decide_eq_true_iff, decide_eq_true_iff]
  rfl

/-- Clearing the status moves no object. -/
@[simp] theorem State.clearStatus_objectsFit (s : State) : s.clearStatus.objectsFit = s.objectsFit := rfl

theorem startCommand_accept {s : State} (hlen : s.seedLen = 128#64) (hfit : s.objectsFit = true) :
    startCommand s = .next s.clearStatus.launch := by
  simp [startCommand, hlen, hfit, Config.seedBytes]

/-! ### The frame of a command -/

/-- The part of the state that no command writes, the rest erased. -/
def State.outerPart (s : State) : State :=
  { State.reset with
    lanes := s.lanes, iw := s.iw, ix := s.ix, iy := s.iy, iz := s.iz
    rom := s.rom, mem := s.mem, unreadable := s.unreadable
    script := s.script, reads := s.reads, answers := s.answers }

section OuterPart
variable (s : State)

@[simp] theorem State.clearStatus_outerPart : s.clearStatus.outerPart = s.outerPart := rfl
@[simp] theorem State.raiseInvalidSeedLength_outerPart :
    s.raiseInvalidSeedLength.outerPart = s.outerPart := rfl
@[simp] theorem State.launch_outerPart : s.launch.outerPart = s.outerPart := rfl

end OuterPart

/-- What `OuterStep` keeps is read off the part that no command writes. -/
theorem outerStep_of_outerPart_eq {s t : State} (h : t.outerPart = s.outerPart) : OuterStep s t where
  lanes j := (congrArg (State.lane · j) h :)
  injection := ⟨(congrArg State.iw h :), (congrArg State.ix h :), (congrArg State.iy h :), (congrArg State.iz h :)⟩
  outside := ⟨fun a => (congrArg (State.byteAt · a) h :), fun a => (congrArg (State.readable · a) h :),
    (congrArg State.rom h :), (congrArg State.script h :), (congrArg State.answers h :)⟩
  reads := (congrArg State.reads h :)

/-! ### The STATUS word (R30) -/

@[simp] theorem bitQuad_toNat (b : Bool) : (bitQuad b).toNat = b.toNat := by
  cases b <;> rfl

/-- A field on top of a value that fits below it adds up: no bit is shared and none is lost. -/
theorem toNat_shiftLeft_or {x y : Quad} {k : Nat} (hx : x.toNat * 2 ^ k < 2 ^ 64) (hy : y.toNat < 2 ^ k) :
    (x <<< k ||| y).toNat = x.toNat * 2 ^ k + y.toNat := by
  rw [BitVec.toNat_or, BitVec.toNat_shiftLeft, Nat.shiftLeft_eq, Nat.mod_eq_of_lt hx, ← Nat.shiftLeft_eq,
    Nat.shiftLeft_add_eq_or_of_lt hy]

/-- STATUS as a number: the flags from bit 0 up, each below the next field. -/
theorem State.statusWord_toNat (s : State) :
    s.statusWord.toNat = s.errCode.toNat * 16 + s.err.toNat * 4 + s.done.toNat * 2 + s.busy.toNat := by
  have hcode := s.errCode.isLt
  have herr := s.err.toNat_lt
  have hdone := s.done.toNat_lt
  have hbusy := s.busy.toNat_lt
  have hcodeQuad : (s.errCode.setWidth 64).toNat = s.errCode.toNat := by
    rw [BitVec.toNat_setWidth, Nat.mod_eq_of_lt (by omega)]
  have hlow1 : (bitQuad s.done <<< 1 ||| bitQuad s.busy).toNat = s.done.toNat * 2 + s.busy.toNat := by
    rw [toNat_shiftLeft_or] <;> simp only [bitQuad_toNat] <;> omega
  have hlow2 : (bitQuad s.err <<< 2 ||| (bitQuad s.done <<< 1 ||| bitQuad s.busy)).toNat =
      s.err.toNat * 4 + (s.done.toNat * 2 + s.busy.toNat) := by
    rw [toNat_shiftLeft_or] <;> simp only [bitQuad_toNat, hlow1] <;> omega
  rw [State.statusWord, BitVec.or_assoc, BitVec.or_assoc, toNat_shiftLeft_or] <;>
    simp only [hcodeQuad, hlow2] <;> omega

/-! ### The obligations -/

/-- Settles O36, one case for each way START can go. In the two that act the fields are read off the named
updates: the status cleared first, then the error raised or the run launched. -/
theorem startBeginsARunOrRejects : Obligations.StartBeginsARunOrRejects := by
  refine fun s v h0 => ⟨fun hbusy => ?ignored, fun hidle hlen => ?rejected, fun hidle hlen hseed hdata => ?accepted⟩
  case ignored => rw [hostAct_write, hostWrite_busy hbusy]
  case rejected =>
    refine ⟨s.clearStatus.raiseInvalidSeedLength, ?_, hidle, rfl, rfl, rfl, rfl, rfl, ⟨rfl, rfl, rfl⟩,
      rfl, rfl, rfl, rfl, outerStep_of_outerPart_eq (by simp)⟩
    rw [hostAct_write_ctrl hidle, ctrlWrite_start s h0, startCommand_reject hlen]
  case accepted =>
    refine ⟨s.clearStatus.launch, ?_, rfl, rfl, rfl, rfl, rfl, rfl, blocksOf_toNat s.dataLen,
      chunksOf_toNat s.dataLen, rfl, rfl, rfl, rfl, rfl, outerStep_of_outerPart_eq (by simp)⟩
    have hfit : s.objectsFit = true := s.objectsFit_iff.2 ⟨hseed, hdata⟩
    rw [hostAct_write_ctrl hidle, ctrlWrite_start s h0, startCommand_accept hlen hfit]

/-- Settles O39: an idle block performs CLR, and that is the clearing of the status alone. -/
theorem clrClearsTheStatusAlone : Obligations.ClrClearsTheStatusAlone := by
  refine fun s v h0 h1 => ⟨fun hbusy => ?ignored, fun hidle => ?cleared⟩
  case ignored => rw [hostAct_write, hostWrite_busy hbusy]
  case cleared =>
    refine ⟨s.clearStatus, ?_, rfl, rfl, rfl, rfl, hidle, rfl, ⟨rfl, rfl, rfl⟩, rfl, rfl, rfl, rfl,
      outerStep_of_outerPart_eq s.clearStatus_outerPart⟩
    rw [hostAct_write_ctrl hidle, ctrlWrite_clr s h0 h1, clrCommand_eq]

/-- Settles O41: the busy check comes before the register, and CTRL looks at bit 0, then at bit 1. -/
theorem hostWritesStoreParameters : Obligations.HostWritesStoreParameters := by
  refine fun s v => ⟨fun hbusy r => by rw [hostAct_write, hostWrite_busy hbusy], fun hidle => ?_, rfl⟩
  have hctrl := hostAct_write_ctrl hidle v
  exact ⟨hostAct_write_seedAddr hidle v, hostAct_write_seedLen hidle v, hostAct_write_dataAddr hidle v,
    hostAct_write_dataLen hidle v, hostAct_write_readOnly hidle v (.inl rfl),
    hostAct_write_readOnly hidle v (.inr (.inl rfl)), hostAct_write_readOnly hidle v (.inr (.inr rfl)),
    fun h0 => hctrl.trans (ctrlWrite_start s h0), fun h0 h1 => hctrl.trans (ctrlWrite_clr s h0 h1),
    fun h0 h1 => hctrl.trans (ctrlWrite_none s h0 h1)⟩

/-- Settles O42: a register reads as its field, and STATUS as the sum of its disjoint fields. -/
theorem hostReadsReturnTheRegisters : Obligations.HostReadsReturnTheRegisters := fun s =>
  ⟨fun r => hostAct_read r s, rfl, s.statusWord_toNat, rfl, rfl, rfl, rfl, rfl, rfl, rfl⟩

end Sys2Proof.Machine
end

section
/-! PROOFS. The one error in an idle block (60_exceptions.md R253). -/

namespace Sys2Proof.Machine

/-- A command that leaves `pc`, `PTR` and the counters too leaves a cleared block cleared (R41): an
`OuterStep` keeps the rest of the working state. -/
theorem State.Cleared.of_outerStep {s t : State} (hs : s.Cleared) (ho : OuterStep s t)
    (hc : SameCounters s t) (hpc : t.pc = s.pc) : t.Cleared where
  lanes j := (ho.lanes j).trans (hs.lanes j)
  iw := ho.injection.iw.trans hs.iw
  ix := ho.injection.ix.trans hs.ix
  iy := ho.injection.iy.trans hs.iy
  iz := ho.injection.iz.trans hs.iz
  ptr := hc.ptr.trans hs.ptr
  blkcnt := hc.blkcnt.trans hs.blkcnt
  chcnt := hc.chcnt.trans hs.chcnt
  pc := hpc.trans hs.pc

/-- Settles O38: by `startBeginsARunOrRejects` a rejected START writes the status alone, so the working
state, cleared while the block was idle, is still cleared. -/
theorem wrongSeedLengthIsReported : Obligations.WrongSeedLengthIsReported := by
  intro s v hinv hidle h0 hlen
  obtain ⟨-, hrejected, -⟩ := startBeginsARunOrRejects s v h0
  obtain ⟨t, hnext, hbusy, hdone, herr, hcode, hdigest, hpc, hcounters, hseedAddr, hseedLen, hdataAddr,
    hdataLen, houter⟩ := hrejected hidle hlen
  have hcleared : t.Cleared := (hinv.idle hidle).of_outerStep houter hcounters hpc
  exact ⟨t, hnext, herr, hcode, hbusy, hdone, hdigest, hcleared, houter.reads, hseedAddr, hseedLen,
    hdataAddr, hdataLen, houter.outside⟩

end Sys2Proof.Machine
end

section
/-!
PROOFS. The rules over all micro-operations (10_state.md R23, R28, R38, 20_memory.md R53,
70_reset_and_hazards.md R285). The idea: what each micro-operation answers is said once, as the named state it
leads to; what it leaves unchanged, and what it does to `pc`, the pointer and the counters, is then read off
those states.
-/

namespace Sys2Proof.Machine

/-! ### What a micro-operation answers -/

section ExecNext
variable {s t : State}

theorem exec_seed_next {a : LaneNo} (h : exec (.seed a) s = .next t) :
    s.windowReadable (seedReadAddr s a) = true ∧ t = s.seeded a :=
  execSeed_next h

theorem exec_blk_next {target : UAddr} (h : exec (.blk target) s = .next t) :
    (s.blkcnt = 0#56 ∧ t = s.goto target) ∨ (s.blkcnt ≠ 0#56 ∧ t = s.blockCounted) := by
  by_cases hz : s.blkcnt = 0#56
  · exact .inl ⟨hz, Host.Outcome.next.inj (h.symm.trans (exec_blk_zero hz target))⟩
  · exact .inr ⟨hz, Host.Outcome.next.inj (h.symm.trans (exec_blk_nonzero hz target))⟩

theorem exec_ldc_next (h : exec .ldc s = .next t) : s.chunkReadable ∧ t = s.chunkLoaded :=
  execLdc_next h

/-- With a partial, `LDP` is one read. -/
theorem exec_ldp_part (h : tailLenOf s.dataLen ≠ 0) :
    exec .ldp s = memRead (partialAddr s.dataAddr s.dataLen) ((s.setIx 0#128).setIz 0#128) fun raw u =>
      .next (u.setIx (partialOf u.dataAddr u.dataLen raw)).advance :=
  (exec_ldp s).trans (if_neg h)

theorem exec_ldp_next (h : exec .ldp s = .next t) :
    (tailLenOf s.dataLen = 0 ∧ t = s.partialCleared) ∨
    (tailLenOf s.dataLen ≠ 0 ∧ s.windowReadable (partialAddr s.dataAddr s.dataLen) = true ∧
      t = s.partialLoaded) := by
  by_cases hz : tailLenOf s.dataLen = 0
  · exact .inl ⟨hz, Host.Outcome.next.inj (h.symm.trans (exec_ldp_whole hz))⟩
  · cases hr : s.windowReadable (partialAddr s.dataAddr s.dataLen) with
    | true => exact .inr ⟨hz, rfl, Host.Outcome.next.inj (h.symm.trans (exec_ldp_readable hz hr))⟩
    | false => cases h.symm.trans ((exec_ldp s).trans (execLdp_unreadable hz hr))

/-- With a whole 16 bytes before the partial, `LDF` is one read. -/
theorem exec_ldf_part (h : full16Of s.dataLen = true) :
    exec .ldf s = memRead (lastAddr s.dataAddr s.dataLen - 16#64) (s.setIz s.ix) fun x u =>
      .next (u.setIx x).advance :=
  (exec_ldf s).trans (if_pos h)

theorem exec_ldf_next (h : exec .ldf s = .next t) :
    (full16Of s.dataLen = false ∧ t = s.advance) ∨
    (full16Of s.dataLen = true ∧ s.windowReadable (lastAddr s.dataAddr s.dataLen - 16#64) = true ∧
      t = s.residualLoaded) := by
  cases hf : full16Of s.dataLen with
  | false => exact .inl ⟨rfl, Host.Outcome.next.inj (h.symm.trans (exec_ldf_short hf))⟩
  | true =>
    cases hr : s.windowReadable (lastAddr s.dataAddr s.dataLen - 16#64) with
    | true => exact .inr ⟨rfl, rfl, Host.Outcome.next.inj (h.symm.trans (exec_ldf_readable hf hr))⟩
    | false => cases h.symm.trans ((exec_ldf s).trans (execLdf_unreadable hf hr))

theorem exec_chk_next {target : UAddr} (h : exec (.chk target) s = .next t) :
    (s.chcnt = 0#3 ∧ t = s.goto target) ∨ (s.chcnt ≠ 0#3 ∧ t = s.chunkCounted) := by
  by_cases hz : s.chcnt = 0#3
  · exact .inl ⟨hz, Host.Outcome.next.inj (h.symm.trans (exec_chk_zero hz target))⟩
  · exact .inr ⟨hz, Host.Outcome.next.inj (h.symm.trans (exec_chk_nonzero hz target))⟩

end ExecNext

/-! ### The frame -/

/-- A micro-operation other than FIN writes the working state and the record of reads and nothing else. -/
theorem exec_next_withoutWork {i : Instr} {s t : State} (hi : i ≠ .fin) (h : exec i s = .next t) :
    t.withoutWork = s.withoutWork := by
  cases i with
  | seed a => obtain ⟨-, rfl⟩ := exec_seed_next h; simp [State.seeded]
  | blk target =>
    rcases exec_blk_next h with ⟨-, rfl⟩ | ⟨-, rfl⟩
    · simp
    · simp [State.blockCounted]
  | ldc => obtain ⟨-, rfl⟩ := exec_ldc_next h; simp [State.chunkLoaded]
  | mix a b c d e => cases h; simp [mixLanes]
  | jmp target => cases h; simp
  | ldp =>
    rcases exec_ldp_next h with ⟨-, rfl⟩ | ⟨-, -, rfl⟩
    · simp [State.partialCleared]
    · simp [State.partialLoaded]
  | ldf =>
    rcases exec_ldf_next h with ⟨-, rfl⟩ | ⟨-, -, rfl⟩
    · simp
    · simp [State.residualLoaded]
  | inj => cases h; simp
  | lenv => cases h; simp
  | chk target =>
    rcases exec_chk_next h with ⟨-, rfl⟩ | ⟨-, rfl⟩
    · simp
    · simp [State.chunkCounted]
  | shuf a b c d e f => cases h; simp [shufLanes]
  | addq a b => cases h; simp
  | xorv a b => cases h; simp
  | fin => exact absurd rfl hi

theorem exec_next_innerStep {i : Instr} {s t : State} (hi : i ≠ .fin) (h : exec i s = .next t) : InnerStep s t :=
  innerStep_of_withoutWork_eq (exec_next_withoutWork hi h)

theorem exec_fin_next {s t : State} (h : exec .fin s = .next t) : t = s.finished :=
  Host.Outcome.next.inj (h.symm.trans (exec_fin s))

/-- Settles O31: every micro-operation other than FIN has the frame of an inner step, and FIN's own frame keeps
the same. -/
theorem noMicroOperationWritesOutside : Obligations.NoMicroOperationWritesOutside := by
  intro i s t h
  by_cases hi : i = .fin
  · subst hi
    rw [exec_fin_next h]
    exact ⟨s.finished_sameOutside, rfl, rfl, rfl, rfl⟩
  · have hinner := exec_next_innerStep hi h
    exact ⟨hinner.outside, hinner.hostRegs.seedAddr, hinner.hostRegs.seedLen, hinner.hostRegs.dataAddr,
      hinner.hostRegs.dataLen⟩

/-- Settles O32: an inner step keeps the flags and the digest, and FIN leaves ERR and ERRCODE as they are. -/
theorem onlyFinWritesFlagsAndDigest : Obligations.OnlyFinWritesFlagsAndDigest := by
  intro i s t h
  by_cases hi : i = .fin
  · subst hi
    rw [exec_fin_next h]
    exact ⟨rfl, rfl, fun hne => absurd rfl hne, fun _ => ⟨rfl, rfl, s.finished_digest⟩⟩
  · have hinner := exec_next_innerStep hi h
    exact ⟨hinner.flags.err, hinner.flags.errCode,
      fun _ => ⟨hinner.flags.busy, hinner.flags.done, hinner.hostRegs.digest⟩, fun heq => absurd heq hi⟩

/-! ### `pc`, the pointer and the counters -/

/-- The micro-operations that go on to the next word and write neither the pointer nor a counter: all but the
branches, LDC and FIN. -/
def goesOn : Instr → Bool
  | .blk _ | .ldc | .jmp _ | .chk _ | .fin => false
  | _ => true

theorem exec_next_goesOn {i : Instr} {s t : State} (hi : goesOn i = true) (h : exec i s = .next t) :
    t.pc = s.pc + 1#7 ∧ SameCounters s t := by
  cases i with
  | seed a => obtain ⟨-, rfl⟩ := exec_seed_next h; exact ⟨s.seeded_pc a, s.seeded_sameCounters a⟩
  | ldp =>
    rcases exec_ldp_next h with ⟨-, rfl⟩ | ⟨-, -, rfl⟩
    · exact ⟨rfl, rfl, rfl, rfl⟩
    · exact ⟨rfl, rfl, rfl, rfl⟩
  | ldf =>
    rcases exec_ldf_next h with ⟨-, rfl⟩ | ⟨-, -, rfl⟩
    · exact ⟨rfl, rfl, rfl, rfl⟩
    · exact ⟨rfl, rfl, rfl, rfl⟩
  | mix | inj | lenv | shuf | addq | xorv => cases h; exact ⟨rfl, rfl, rfl, rfl⟩
  | blk | ldc | jmp | chk | fin => cases hi

/-! ### Noninterference (R285) -/

/-- The part of the state that decides addresses and branches, the rest erased. -/
def State.controlPart (s : State) : State :=
  { State.reset with
    pc := s.pc, busy := s.busy, ptr := s.ptr, blkcnt := s.blkcnt, chcnt := s.chcnt
    seedAddr := s.seedAddr, dataAddr := s.dataAddr, dataLen := s.dataLen
    rom := s.rom, unreadable := s.unreadable, script := s.script, reads := s.reads }

theorem sameControl_iff {s t : State} : SameControl s t ↔ t.controlPart = s.controlPart := by
  constructor
  · rintro ⟨h1, h2, ⟨h3, h4, h5⟩, h6, h7, h8, h9, h10, h11, h12⟩
    simp only [State.controlPart, h1, h2, h3, h4, h5, h6, h7, h8, h9, h10, h11, h12]
  · intro h
    exact ⟨(congrArg State.pc h :), (congrArg State.busy h :),
      ⟨(congrArg State.ptr h :), (congrArg State.blkcnt h :), (congrArg State.chcnt h :)⟩,
      (congrArg State.seedAddr h :), (congrArg State.dataAddr h :), (congrArg State.dataLen h :),
      (congrArg State.rom h :), (congrArg State.unreadable h :), (congrArg State.script h :),
      (congrArg State.reads h :)⟩

section ControlPart
variable (s : State)

@[simp] theorem State.setLane_controlPart (i : LaneNo) (v : Lane) :
    (s.setLane i v).controlPart = s.controlPart := rfl
@[simp] theorem State.setIw_controlPart (v : Lane) : (s.setIw v).controlPart = s.controlPart := rfl
@[simp] theorem State.setIx_controlPart (v : Lane) : (s.setIx v).controlPart = s.controlPart := rfl
@[simp] theorem State.setIy_controlPart (v : Lane) : (s.setIy v).controlPart = s.controlPart := rfl
@[simp] theorem State.setIz_controlPart (v : Lane) : (s.setIz v).controlPart = s.controlPart := rfl
@[simp] theorem State.setPtr_controlPart (v : Quad) : (s.setPtr v).controlPart = s.controlPart.setPtr v := rfl
@[simp] theorem State.setBlkcnt_controlPart (v : BitVec 56) :
    (s.setBlkcnt v).controlPart = s.controlPart.setBlkcnt v := rfl
@[simp] theorem State.setChcnt_controlPart (v : BitVec 3) :
    (s.setChcnt v).controlPart = s.controlPart.setChcnt v := rfl
@[simp] theorem State.noteRead_controlPart (a : Quad) : (s.noteRead a).controlPart = s.controlPart.noteRead a := rfl
@[simp] theorem State.goto_controlPart (t : UAddr) : (s.goto t).controlPart = s.controlPart.goto t := rfl
@[simp] theorem State.advance_controlPart : s.advance.controlPart = s.controlPart.advance := rfl

end ControlPart

/-- Two answers that agree in what decides addresses and branches. -/
inductive SameAnswer : StepResult → StepResult → Prop
  | next {t t' : State} (h : SameControl t t') : SameAnswer (.next t) (.next t')
  | fault (r : Fault) : SameAnswer (.fault r) (.fault r)
  | refused (r : Refusal) : SameAnswer (.refused r) (.refused r)

theorem SameAnswer.of_controlPart_eq {t t' : State} (h : t'.controlPart = t.controlPart) :
    SameAnswer (.next t) (.next t') := .next (sameControl_iff.2 h)

/-- Which windows can be read is decided by the page list alone. -/
theorem SameControl.windowReadable {s s' : State} (h : SameControl s s') (a : Quad) :
    s'.windowReadable a = s.windowReadable a := by
  simp only [State.windowReadable, State.readable, h.unreadable]

/-- A read answers alike when what follows it answers alike for any bytes read. -/
theorem SameAnswer.memRead {s s' : State} (h : SameControl s s') (a : Quad) {k k' : Lane → State → StepResult}
    (hk : ∀ v v' t t', SameControl t t' → SameAnswer (k v t) (k' v' t')) :
    SameAnswer (memRead a s k) (memRead a s' k') := by
  cases hr : s.windowReadable a with
  | true =>
    rw [memRead_of_readable hr, memRead_of_readable ((h.windowReadable a).trans hr)]
    exact hk _ _ _ _ (sameControl_iff.2 (by simp [sameControl_iff.1 h]))
  | false =>
    rw [memRead_of_unreadable hr, memRead_of_unreadable ((h.windowReadable a).trans hr)]
    exact .fault _

theorem exec_sameAnswer (i : Instr) {s s' : State} (h : SameControl s s') : SameAnswer (exec i s) (exec i s') := by
  have hc := sameControl_iff.1 h
  cases i with
  | seed a =>
    have haddr : seedReadAddr s' a = seedReadAddr s a := by simp only [seedReadAddr, h.seedAddr]
    simp only [exec_seed, execSeed, haddr]
    exact .memRead h _ fun v v' t t' ht => .of_controlPart_eq (by simp [sameControl_iff.1 ht])
  | blk target =>
    by_cases hz : s.blkcnt = 0#56
    · rw [exec_blk_zero hz, exec_blk_zero (h.counters.blkcnt.trans hz)]
      exact .of_controlPart_eq (by simp [hc])
    · rw [exec_blk_nonzero hz, exec_blk_nonzero (by rwa [h.counters.blkcnt])]
      exact .of_controlPart_eq (by simp [State.blockCounted, hc, h.counters.blkcnt])
  | ldc =>
    simp only [exec_ldc, execLdc, h.counters.ptr]
    refine .memRead h _ fun w w' _ _ ht => .memRead (sameControl_iff.2 (by simp [sameControl_iff.1 ht])) _ ?_
    refine fun x x' _ _ ht => .memRead (sameControl_iff.2 (by simp [sameControl_iff.1 ht])) _ ?_
    refine fun y y' _ _ ht => .memRead (sameControl_iff.2 (by simp [sameControl_iff.1 ht])) _ ?_
    exact fun z z' _ _ ht => .of_controlPart_eq (by simp [sameControl_iff.1 ht])
  | ldp =>
    by_cases hz : tailLenOf s.dataLen = 0
    · rw [exec_ldp_whole hz, exec_ldp_whole (by rwa [h.dataLen])]
      exact .of_controlPart_eq (by simp [State.partialCleared, hc])
    · rw [exec_ldp_part hz, exec_ldp_part (by rwa [h.dataLen]), h.dataLen, h.dataAddr]
      refine .memRead (sameControl_iff.2 (by simp [hc])) _ fun v v' _ _ ht => ?_
      exact .of_controlPart_eq (by simp [sameControl_iff.1 ht])
  | ldf =>
    cases hf : full16Of s.dataLen with
    | false =>
      rw [exec_ldf_short hf, exec_ldf_short (by rwa [h.dataLen])]
      exact .of_controlPart_eq (by simp [hc])
    | true =>
      rw [exec_ldf_part hf, exec_ldf_part (by rwa [h.dataLen]), h.dataLen, h.dataAddr]
      refine .memRead (sameControl_iff.2 (by simp [hc])) _ fun v v' _ _ ht => ?_
      exact .of_controlPart_eq (by simp [sameControl_iff.1 ht])
  | chk target =>
    by_cases hz : s.chcnt = 0#3
    · rw [exec_chk_zero hz, exec_chk_zero (h.counters.chcnt.trans hz)]
      exact .of_controlPart_eq (by simp [hc])
    · rw [exec_chk_nonzero hz, exec_chk_nonzero (by rwa [h.counters.chcnt])]
      exact .of_controlPart_eq (by simp [State.chunkCounted, hc, h.counters.chcnt])
  | mix a b c d e => exact .of_controlPart_eq (by simp [mixLanes, hc])
  | shuf a b c d e f => exact .of_controlPart_eq (by simp [shufLanes, hc])
  | jmp target => exact .of_controlPart_eq (by simp [hc])
  | inj => exact .of_controlPart_eq (by simp [hc])
  | lenv => exact .of_controlPart_eq (by simp [hc])
  | addq a b => exact .of_controlPart_eq (by simp [hc])
  | xorv a b => exact .of_controlPart_eq (by simp [hc])
  | fin =>
    exact .next ⟨rfl, rfl, ⟨rfl, rfl, rfl⟩, h.seedAddr, h.dataAddr, h.dataLen, h.rom, h.unreadable, h.script, h.reads⟩

theorem SameControl.fetch {s s' : State} (h : SameControl s s') : s'.fetch = s.fetch := by
  simp only [State.fetch, h.rom, h.pc]

theorem sequencerTurn_sameAnswer {s s' : State} (h : SameControl s s') :
    SameAnswer (sequencerTurn s) (sequencerTurn s') := by
  cases hb : s.busy with
  | false =>
    rw [sequencerTurn_idle hb, sequencerTurn_idle (h.busy.trans hb)]
    exact .next h
  | true =>
    have hb' := h.busy.trans hb
    cases hd : decode s.fetch with
    | ok i =>
      rw [sequencerTurn_legal hb hd, sequencerTurn_legal hb' (by rw [h.fetch, hd])]
      exact exec_sameAnswer i h
    | error e =>
      rw [sequencerTurn_illegal hb hd, sequencerTurn_illegal hb' (by rw [h.fetch, hd]), h.fetch]
      exact .refused _

theorem SameAnswer.of_next {t : State} {r : StepResult} (h : SameAnswer (.next t) r) :
    ∃ t', r = .next t' ∧ SameControl t t' := by
  cases h with | next h => exact ⟨_, rfl, h⟩

theorem SameAnswer.of_fault {e : Fault} {r : StepResult} (h : SameAnswer (.fault e) r) : r = .fault e := by
  cases h
  rfl

theorem SameAnswer.of_refused {e : Refusal} {r : StepResult} (h : SameAnswer (.refused e) r) :
    r = .refused e := by
  cases h
  rfl

/-- Settles O33: the two turns agree, whichever kind of answer the first one gives. -/
theorem dataDecidesNoAddressAndNoBranch : Obligations.DataDecidesNoAddressAndNoBranch := by
  intro s s' h
  have hsame := sequencerTurn_sameAnswer h
  refine ⟨fun t ht => ?_, fun e he => ?_, fun e he => ?_⟩
  · rw [ht] at hsame
    exact hsame.of_next
  · rw [he] at hsame
    exact hsame.of_fault
  · rw [he] at hsame
    exact hsame.of_refused

end Sys2Proof.Machine
end

section
/-!
PROOFS. MIX and SHUF with distinct lanes, sample words, the turns of the script, the refusals of the host's side,
the state after reset (42_block_mixer.md R152, 44_reducer.md R200, 45_sequencer_and_host.md R220, 20_memory.md
R57, R58).
-/

namespace Sys2Proof.Machine

/-- Settles O27: between distinct lanes an assignment is seen only by the later ones that name its lane. -/
theorem distinctLanesMixInClosedForm : Obligations.DistinctLanesMixInClosedForm := by
  refine ⟨fun a b c d e s hne => ?mix, fun a b c d e f s hne => ?shuf⟩
  case mix =>
    obtain ⟨-, t, hnext, hlane, -⟩ := mixMakesSixAssignments a b c d e s
    simp only [List.nodup_cons, List.mem_cons, List.not_mem_nil, or_false, not_or] at hne
    refine ⟨t, hnext, ?_, ?_, ?_, ?_, ?_⟩ <;> rw [hlane] <;> grind [updLane]
  case shuf =>
    obtain ⟨-, t, hnext, hlane, -⟩ := shufMakesSixAssignments a b c d e f s
    simp only [List.nodup_cons, List.mem_cons, List.not_mem_nil, or_false, not_or] at hne
    refine ⟨t, hnext, ?_, ?_, ?_, ?_, ?_, ?_⟩ <;> rw [hlane] <;> grind [updLane]

/-- Settles O4: seven of the words are encoded terms; the other two are rejected, one by a reserved bit and one
by its opcode. -/
theorem sampleWordsDecode : Obligations.SampleWordsDecode :=
  ⟨decode_encode (.seed 7), decode_encode (.blk 0x7F), decode_encode .ldc, decode_encode (.mix 1 2 3 4 5),
    decode_encode (.shuf 5 4 3 2 1 0), decode_encode (.addq 3 0), decode_encode (.xorv 2 6), by decide,
    decode_noRow (.inr rfl)⟩

/-! ### The turns of the script -/

/-- Settles O34: both forms of the sequencer's turn fetch the same word, since taking a turn off the script
moves neither `pc` nor the ROM. -/
theorem stepRunsTheDecodedInstruction : Obligations.StepRunsTheDecodedInstruction := by
  refine fun s i hbusy hdec => ⟨fun hscript => ?_, fun rest hscript => ?_⟩
  · exact (nextTurn_nil hscript).trans (sequencerTurn_legal hbusy hdec)
  · exact (nextTurn_sequencer hscript).trans (sequencerTurn_legal (s := s.setScript rest) hbusy hdec)

/-- Settles O35: the head of the script decides the turn, and an idle sequencer has none to take. -/
theorem stepFollowsTheScript : Obligations.StepFollowsTheScript := by
  refine fun s => ⟨fun a rest hscript => nextTurn_host hscript, fun hidle hscript => ?_, fun hidle rest hscript => ?_⟩
  · exact (nextTurn_nil hscript).trans (sequencerTurn_idle hidle)
  · exact (nextTurn_sequencer hscript).trans (sequencerTurn_idle (s := s.setScript rest) hidle)

/-! ### Refusals of the host's side (R57, R58) -/

theorem startCommand_refuse {s : State} (hlen : s.seedLen = 128#64) (hfit : s.objectsFit = false) :
    startCommand s = .refused .objectWraps := by
  simp [startCommand, hlen, hfit, Config.seedBytes]

/-- Settles O37: the seed length is looked at first, and only then whether the objects fit. -/
theorem wrappingObjectsAreRefused : Obligations.WrappingObjectsAreRefused := by
  intro s v h0 hidle hwrap
  have hfit : s.objectsFit = false := by
    rw [← Bool.not_eq_true, s.objectsFit_iff]
    exact hwrap
  have hstart : hostAct (.write .ctrl v) s = startCommand s :=
    (hostAct_write_ctrl hidle v).trans (ctrlWrite_start s h0)
  refine ⟨fun hlen => hstart.trans (startCommand_refuse hlen hfit), fun hlen => ?_⟩
  exact ⟨s.clearStatus.raiseInvalidSeedLength, hstart.trans (startCommand_reject hlen), rfl, hidle⟩

/-- The store of the platform, with the page number as a quotient. -/
theorem hostAct_store (a : Quad) (b : Byte) (s : State) :
    hostAct (.store a b) s =
      if s.busy = true ∧ s.ownsPage (a.toNat / 4096) = true ∧ s.byteAt a ≠ b then .refused (.inputChanged a)
      else .next (s.setByte a b) := by
  simp only [hostAct, platformStore, pageOf, Config.pageBytes, Bool.and_eq_true, bne_iff_ne, and_assoc]

/-- Settles O44: a store that is not refused is one write of the memory, read back by the laws of `memSet`. -/
theorem storesAreReadBackOrRefused : Obligations.StoresAreReadBackOrRefused := by
  intro s a b hmem
  refine ⟨fun hchange => (hostAct_store a b s).trans (if_pos hchange), fun hfree => ?_⟩
  refine ⟨s.setByte a b, (hostAct_store a b s).trans (if_neg hfree), ?_, fun c hc => ?_, rfl,
    State.setByte_wf a b hmem⟩
  · rw [setByte_byteAt hmem, if_pos rfl]
  · rw [setByte_byteAt hmem, if_neg hc]

/-! ### Reset -/

/-- Settles O45: an idle block with all its state 0, empty memory and every page readable. -/
theorem resetKeepsTheInvariants : Obligations.ResetKeepsTheInvariants where
  rom := rfl
  mem := reset_memory_wf.1
  pages := reset_memory_wf.2
  busy_done := by simp [State.reset]
  busy_err := by simp [State.reset]
  done_err := by simp [State.reset]
  errCode := rfl
  digest _ := rfl
  idle _ := State.reset_cleared
  pc := Nat.zero_le _
  seedLen h := absurd h (by simp [State.reset])
  fits h := absurd h (by simp [State.reset])

end Sys2Proof.Machine
end

section
/-!
PROOFS. The invariants of the machine and the place of a run in the micro-program (10_state.md R23, R25 to R27,
R35, R41, 42_block_mixer.md R156, 43_tail_processor.md R177, 45_sequencer_and_host.md R222, R225). The idea: what a
step of the sequencer does to `pc`, the counters and the pointer depends only on the kind of micro-operation
that stands at `pc`; there are eight ways to move, and each statement about every step of a run is one case for
each of them.
-/

namespace Sys2Proof.Machine

/-! ### What stands where in the micro-program -/

theorem decode_fetch {s : State} {i : Instr} (hrom : s.rom = microProgram) (hi : listing[s.pc.toNat]? = some i) :
    decode s.fetch = .ok i := by
  have hword : s.fetch = encode i := by
    simp only [State.fetch, hrom]
    exact microProgram_of_listing s.pc.isLt hi
  rw [hword, decode_encode]

theorem exists_listed {k : Nat} (hk : k ≤ 0x49) : ∃ i, listing[k]? = some i :=
  ⟨_, List.getElem?_eq_getElem (by rw [listing_length]; omega)⟩

/-- What can stand at place `k`: the branches, LDC and FIN have their places, and everywhere else the sequencer
goes on to the next word. -/
abbrev Stands (k : Nat) (i : Instr) : Prop :=
  (i = .blk 0x1A ∧ k = 0x08) ∨
  (i = .jmp 0x08 ∧ k = 0x19) ∨
  (i = .chk 0x36 ∧ 0x21 ≤ k ∧ k ≤ 0x33 ∧ k % 3 = 0) ∨
  (i = .fin ∧ k = 0x49) ∨
  (i = .ldc ∧ (0x09 ≤ k ∧ k ≤ 0x17 ∧ k % 2 = 1 ∨ 0x22 ≤ k ∧ k ≤ 0x34 ∧ k % 3 = 1)) ∨
  (goesOn i = true ∧ (k ≤ 0x07 ∨ 0x0A ≤ k ∧ k ≤ 0x18 ∧ k % 2 = 0 ∨ 0x1A ≤ k ∧ k ≤ 0x20 ∨
    0x23 ≤ k ∧ k ≤ 0x35 ∧ k % 3 = 2 ∨ 0x36 ≤ k ∧ k ≤ 0x48))

theorem stands_of_listing {k : Nat} {i : Instr} (h : listing[k]? = some i) : Stands k i := by
  have hall : ∀ p ∈ listing.zipIdx, Stands p.2 p.1 := by decide
  exact hall (i, k) (List.mem_zipIdx_iff_getElem?.2 h)

theorem Stands.fin_place {k : Nat} (h : Stands k .fin) : k = 0x49 := by
  simpa [Stands, goesOn] using h

theorem Stands.ldc_place {k : Nat} (h : Stands k .ldc) :
    0x09 ≤ k ∧ k ≤ 0x17 ∧ k % 2 = 1 ∨ 0x22 ≤ k ∧ k ≤ 0x34 ∧ k % 3 = 1 := by
  simpa [Stands, goesOn] using h

/-! ### The eight ways to move -/

/-- How a step of the sequencer moves a run. -/
inductive Moved (s t : State) : Prop
  | onward (place : s.pc.toNat ≤ 0x07 ∨ 0x0A ≤ s.pc.toNat ∧ s.pc.toNat ≤ 0x18 ∧ s.pc.toNat % 2 = 0 ∨
      0x1A ≤ s.pc.toNat ∧ s.pc.toNat ≤ 0x20 ∨ 0x23 ≤ s.pc.toNat ∧ s.pc.toNat ≤ 0x35 ∧ s.pc.toNat % 3 = 2 ∨
      0x36 ≤ s.pc.toNat ∧ s.pc.toNat ≤ 0x48)
    (pc : t.pc.toNat = s.pc.toNat + 1) (counters : SameCounters s t)
  | chunk (place : 0x09 ≤ s.pc.toNat ∧ s.pc.toNat ≤ 0x17 ∧ s.pc.toNat % 2 = 1 ∨
      0x22 ≤ s.pc.toNat ∧ s.pc.toNat ≤ 0x34 ∧ s.pc.toNat % 3 = 1)
    (pc : t.pc.toNat = s.pc.toNat + 1) (ptr : t.ptr = s.ptr + 32#64) (blkcnt : t.blkcnt = s.blkcnt)
    (chcnt : t.chcnt = s.chcnt)
  | enterBlock (place : s.pc.toNat = 0x08) (pc : t.pc.toNat = 0x09) (ptr : t.ptr = s.ptr)
    (blkcnt : t.blkcnt.toNat + 1 = s.blkcnt.toNat) (chcnt : t.chcnt = s.chcnt)
  | leaveLoop (place : s.pc.toNat = 0x08) (left : s.blkcnt.toNat = 0) (pc : t.pc.toNat = 0x1A)
    (counters : SameCounters s t)
  | repeatLoop (place : s.pc.toNat = 0x19) (pc : t.pc.toNat = 0x08) (counters : SameCounters s t)
  | enterChunk (place : 0x21 ≤ s.pc.toNat ∧ s.pc.toNat ≤ 0x33 ∧ s.pc.toNat % 3 = 0)
    (pc : t.pc.toNat = s.pc.toNat + 1) (ptr : t.ptr = s.ptr) (blkcnt : t.blkcnt = s.blkcnt)
    (chcnt : t.chcnt.toNat + 1 = s.chcnt.toNat)
  | leaveTail (place : 0x21 ≤ s.pc.toNat ∧ s.pc.toNat ≤ 0x33 ∧ s.pc.toNat % 3 = 0) (left : s.chcnt.toNat = 0)
    (pc : t.pc.toNat = 0x36) (counters : SameCounters s t)
  | finish (place : s.pc.toNat = 0x49) (result : t = s.finished)

theorem toNat_pc_add_one {p : UAddr} (h : p.toNat ≤ 0x49) : (p + 1#7).toNat = p.toNat + 1 := by
  rw [BitVec.toNat_add, BitVec.toNat_ofNat]
  omega

/-- The micro-operation that stands at `pc` moves the run in one of the eight ways. -/
theorem exec_next_moved {s t : State} {i : Instr} (hi : listing[s.pc.toNat]? = some i) (h : exec i s = .next t) :
    Moved s t := by
  rcases stands_of_listing hi with ⟨rfl, hk⟩ | ⟨rfl, hk⟩ | ⟨rfl, hk⟩ | ⟨rfl, hk⟩ | ⟨rfl, hk⟩ | ⟨hgo, hk⟩
  · rcases exec_blk_next h with ⟨hz, rfl⟩ | ⟨hz, rfl⟩
    · exact .leaveLoop hk (by rw [hz]; rfl) rfl ⟨rfl, rfl, rfl⟩
    · have hpos : 0 < s.blkcnt.toNat := Nat.pos_of_ne_zero fun h0 => hz (BitVec.eq_of_toNat_eq h0)
      refine .enterBlock hk ?_ rfl ?_ rfl
      · exact (toNat_pc_add_one (p := s.pc) (by omega)).trans (by omega)
      · rw [State.blockCounted_blkcnt_toNat hz]
        omega
  · cases h
    exact .repeatLoop hk rfl ⟨rfl, rfl, rfl⟩
  · rcases exec_chk_next h with ⟨hz, rfl⟩ | ⟨hz, rfl⟩
    · exact .leaveTail hk (by rw [hz]; rfl) rfl ⟨rfl, rfl, rfl⟩
    · have hpos : 0 < s.chcnt.toNat := Nat.pos_of_ne_zero fun h0 => hz (BitVec.eq_of_toNat_eq h0)
      refine .enterChunk hk (toNat_pc_add_one (p := s.pc) (by omega)) rfl rfl ?_
      rw [State.chunkCounted_chcnt_toNat hz]
      omega
  · exact .finish hk (exec_fin_next h)
  · obtain ⟨-, rfl⟩ := exec_ldc_next h
    exact .chunk hk (by rw [s.chunkLoaded_pc]; exact toNat_pc_add_one (by omega)) s.chunkLoaded_ptr s.chunkLoaded_blkcnt s.chunkLoaded_chcnt
  · obtain ⟨hpc, hcounters⟩ := exec_next_goesOn hgo h
    exact .onward hk (by rw [hpc]; exact toNat_pc_add_one (by omega)) hcounters

/-- A step of a run executes what stands at `pc` of the micro-program. -/
theorem sequencerTurn_eq_exec {s : State} (hinv : s.Inv) (hbusy : s.busy = true) :
    ∃ i, listing[s.pc.toNat]? = some i ∧ sequencerTurn s = exec i s := by
  obtain ⟨i, hi⟩ := exists_listed hinv.pc
  exact ⟨i, hi, sequencerTurn_legal hbusy (decode_fetch hinv.rom hi)⟩

/-- What a turn of the sequencer does in a run: it finishes, or it moves the run and keeps everything beside the
working state and the record of reads. -/
theorem sequencerTurn_next_busy {s t : State} (hinv : s.Inv) (hbusy : s.busy = true)
    (h : sequencerTurn s = .next t) :
    (s.pc.toNat = 0x49 ∧ t = s.finished) ∨ (Moved s t ∧ t.withoutWork = s.withoutWork) := by
  obtain ⟨i, hi, hturn⟩ := sequencerTurn_eq_exec hinv hbusy
  rw [hturn] at h
  by_cases hfin : i = .fin
  · subst hfin
    exact .inl ⟨(stands_of_listing hi).fin_place, exec_fin_next h⟩
  · exact .inr ⟨exec_next_moved hi h, exec_next_withoutWork hfin h⟩

/-- A run that has not finished stays inside the micro-program. -/
theorem Moved.pc_le {s t : State} (h : Moved s t) : t.pc.toNat ≤ 0x49 := by
  cases h with
  | finish _ result => rw [result]; exact Nat.zero_le _
  | onward place pc | chunk place pc | enterBlock place pc | leaveLoop place _ pc | repeatLoop place pc
  | enterChunk place pc | leaveTail place _ pc => omega

/-! ### The invariants (R23, R35, R41, R222) -/

/-- A cleared state stays cleared when only status, host registers, memory, pages or records change. -/
theorem State.Cleared.of_eq {s t : State} (hs : s.Cleared) (hlanes : t.lanes = s.lanes) (hpc : t.pc = s.pc)
    (hinj : SameInjection s t) (hcnt : SameCounters s t) : t.Cleared where
  lanes j := (congrArg (fun l : Vector Lane 8 => l[j.toNat]'j.isLt) hlanes).trans (hs.lanes j)
  iw := hinj.iw.trans hs.iw
  ix := hinj.ix.trans hs.ix
  iy := hinj.iy.trans hs.iy
  iz := hinj.iz.trans hs.iz
  ptr := hcnt.ptr.trans hs.ptr
  blkcnt := hcnt.blkcnt.trans hs.blkcnt
  chcnt := hcnt.chcnt.trans hs.chcnt
  pc := hpc.trans hs.pc

section InvKept
variable {s : State} (h : s.Inv)
include h

theorem State.Inv.setScript (ts : List Turn) : (s.setScript ts).Inv :=
  { h with idle := fun hb => (h.idle hb).of_eq rfl rfl ⟨rfl, rfl, rfl, rfl⟩ ⟨rfl, rfl, rfl⟩ }

theorem State.Inv.noteAnswer (r : HostReg) (v : Quad) : (s.noteAnswer r v).Inv :=
  { h with idle := fun hb => (h.idle hb).of_eq rfl rfl ⟨rfl, rfl, rfl, rfl⟩ ⟨rfl, rfl, rfl⟩ }

theorem State.Inv.setByte (a : Quad) (b : Byte) : (s.setByte a b).Inv :=
  { h with
    mem := State.setByte_wf a b h.mem
    idle := fun hb => (h.idle hb).of_eq rfl rfl ⟨rfl, rfl, rfl, rfl⟩ ⟨rfl, rfl, rfl⟩ }

theorem State.Inv.setPages {ps : List Nat} (hps : Pages.wf ps = true) : (s.setPages ps).Inv :=
  { h with
    pages := hps
    idle := fun hb => (h.idle hb).of_eq rfl rfl ⟨rfl, rfl, rfl, rfl⟩ ⟨rfl, rfl, rfl⟩ }

theorem State.Inv.clearStatus : s.clearStatus.Inv where
  rom := h.rom
  mem := h.mem
  pages := h.pages
  busy_done := by simp
  busy_err := by simp
  done_err := by simp
  errCode := rfl
  digest _ := rfl
  idle hb := (h.idle hb).of_eq rfl rfl ⟨rfl, rfl, rfl, rfl⟩ ⟨rfl, rfl, rfl⟩
  pc := h.pc
  seedLen := h.seedLen
  fits := h.fits

theorem State.Inv.afterRst : s.afterRst.Inv where
  rom := h.rom
  mem := h.mem
  pages := h.pages
  busy_done := by simp
  busy_err := by simp
  done_err := by simp
  errCode := rfl
  digest _ := rfl
  idle _ := s.afterRst_cleared
  pc := Nat.zero_le _
  seedLen hb := absurd hb (by simp)
  fits hb := absurd hb (by simp)

/-- FIN: the block was busy, so ERR was 0, and it is left cleared. -/
theorem State.Inv.finished (hbusy : s.busy = true) : s.finished.Inv where
  rom := h.rom
  mem := h.mem
  pages := h.pages
  busy_done hb := absurd hb.1 Bool.false_ne_true
  busy_err hb := absurd hb.1 Bool.false_ne_true
  done_err hb := h.busy_err ⟨hbusy, hb.2⟩
  errCode := h.errCode
  digest hd := absurd hd.symm Bool.false_ne_true
  idle _ := s.finished_cleared
  pc := Nat.zero_le _
  seedLen hb := absurd hb Bool.false_ne_true
  fits hb := absurd hb Bool.false_ne_true

/-- A micro-operation other than FIN in a run. -/
theorem State.Inv.innerStep {t : State} (hbusy : s.busy = true) (hw : t.withoutWork = s.withoutWork)
    (hpc : t.pc.toNat ≤ 0x49) : t.Inv := by
  obtain ⟨hflags, hregs, houtside⟩ := innerStep_of_withoutWork_eq hw
  have hmem : t.mem = s.mem := (congrArg State.mem hw :)
  have hpages : t.unreadable = s.unreadable := (congrArg State.unreadable hw :)
  have hfits : t.objectsFit = s.objectsFit := (congrArg State.objectsFit hw :)
  constructor
  case idle => exact fun hb => absurd ((hflags.busy.trans hbusy).symm.trans hb) (by simp)
  case pc => exact hpc
  all_goals simp only [hflags.busy, hflags.done, hflags.err, hflags.errCode, hregs.digest, hregs.seedLen,
    houtside.rom, hmem, hpages, hfits]
  exacts [h.rom, h.mem, h.pages, h.busy_done, h.busy_err, h.done_err, h.errCode, h.digest, h.seedLen, h.fits]

theorem State.Inv.sequencerTurn {t : State} (ht : sequencerTurn s = .next t) : t.Inv := by
  cases hbusy : s.busy with
  | false =>
    rw [sequencerTurn_idle hbusy] at ht
    exact Host.Outcome.next.inj ht ▸ h
  | true =>
    rcases sequencerTurn_next_busy h hbusy ht with ⟨-, rfl⟩ | ⟨hmoved, hw⟩
    · exact h.finished hbusy
    · exact h.innerStep hbusy hw hmoved.pc_le

/-- A write of a parameter register of an idle block. -/
theorem State.Inv.parameterWritten {t : State} {v : Quad} (hidle : s.busy = false)
    (ht : t = s.setSeedAddr v ∨ t = s.setSeedLen v ∨ t = s.setDataAddr v ∨ t = s.setDataLen v) : t.Inv := by
  have hcleared := h.idle hidle
  rcases ht with rfl | rfl | rfl | rfl
  all_goals exact
    { h with
      idle := fun _ => hcleared.of_eq rfl rfl ⟨rfl, rfl, rfl, rfl⟩ ⟨rfl, rfl, rfl⟩
      seedLen := fun hb => absurd (hidle.symm.trans hb) Bool.false_ne_true
      fits := fun hb => absurd (hidle.symm.trans hb) Bool.false_ne_true }

/-- A rejected START reports the error in an idle block. -/
theorem State.Inv.rejected (hidle : s.busy = false) : s.clearStatus.raiseInvalidSeedLength.Inv :=
  { h.clearStatus with
    busy_err := fun hb => absurd (hidle.symm.trans hb.1) Bool.false_ne_true
    done_err := fun hb => absurd hb.1 Bool.false_ne_true
    errCode := rfl
    idle := fun hb => (h.idle hb).of_eq rfl rfl ⟨rfl, rfl, rfl, rfl⟩ ⟨rfl, rfl, rfl⟩ }

/-- An accepted START has looked at what a run needs. -/
theorem State.Inv.launched (hlen : s.seedLen = 128#64) (hfit : s.objectsFit = true) : s.clearStatus.launch.Inv :=
  { h.clearStatus with
    busy_done := fun hb => absurd hb.2 Bool.false_ne_true
    busy_err := fun hb => absurd hb.2 Bool.false_ne_true
    idle := fun hb => absurd hb.symm Bool.false_ne_true
    pc := Nat.zero_le _
    seedLen := fun _ => hlen
    fits := fun _ => hfit }

theorem State.Inv.hostAct {t : State} {a : HostAction} (ht : hostAct a s = .next t) : t.Inv := by
  cases a with
  | write r v =>
    rcases hostWrite_next ht with rfl | ⟨hidle, -, rfl⟩ | ⟨-, hlen, hfit, rfl⟩ | ⟨-, rfl⟩ | ⟨hidle, hparam⟩
    · exact h
    · exact h.rejected hidle
    · exact h.launched hlen hfit
    · exact h.clearStatus
    · exact h.parameterWritten hidle hparam
  | read r => cases ht; exact h.noteAnswer r _
  | rst => cases ht; exact h.afterRst
  | store addr b => obtain ⟨rfl, -⟩ := platformStore_next ht; exact h.setByte addr b
  | protect p => cases ht; exact h.setPages (pageAdd_wf p h.pages)
  | unprotect p => cases ht; exact h.setPages (pageDrop_wf p h.pages)

end InvKept

/-- Settles O46, one case for each kind of turn; taking the turn off the script touches no invariant. -/
theorem everyStepKeepsTheInvariants : Obligations.EveryStepKeepsTheInvariants := by
  intro s t hinv ht
  rcases step_cases s with ⟨-, hstep⟩ | ⟨rest, -, hstep⟩ | ⟨a, rest, -, hstep⟩ <;> rw [hstep] at ht
  · exact hinv.sequencerTurn ht
  · exact (hinv.setScript rest).sequencerTurn ht
  · exact (hinv.setScript rest).hostAct ht

/-! ### The place of a run (R156, R177) -/

/-- What is left beside the place of a run does not matter to it. -/
theorem State.OnTrack.of_eq {s t : State} (h : s.OnTrack) (hpc : t.pc = s.pc) (hcnt : SameCounters s t)
    (haddr : t.dataAddr = s.dataAddr) (hlen : t.dataLen = s.dataLen) : t.OnTrack := by
  have hloaded : t.chunksLoaded = s.chunksLoaded := by
    simp only [State.chunksLoaded, State.blocks, State.chunks, hpc, hcnt.blkcnt, hlen]
  constructor <;>
    simp only [State.blocks, State.chunks, hpc, hcnt.ptr, hcnt.blkcnt, hcnt.chcnt, haddr, hlen, hloaded]
  exacts [h.seeding, h.looping, h.inBlock, h.noBlocks, h.allChunks, h.tailChunks, h.noChunks, h.pointer]

end Sys2Proof.Machine
end

section
/-!
PROOFS. Every step of a run keeps the run on track and brings its end one step nearer (42_block_mixer.md R156,
43_tail_processor.md R177, 45_sequencer_and_host.md R225): one case for each of the eight ways to move.
-/

namespace Sys2Proof.Machine

/-! ### The chunks loaded and the steps left, by the place of the run -/

section Places
variable {s : State}

theorem State.chunksLoaded_seeding (h : s.pc.toNat ≤ 0x07) : s.chunksLoaded = 0 := if_pos h

theorem State.chunksLoaded_looping (h : s.pc.toNat = 0x08) :
    s.chunksLoaded = 8 * (s.blocks - s.blkcnt.toNat) := by
  simp [State.chunksLoaded, h]

theorem State.chunksLoaded_inBlock (h : 0x09 ≤ s.pc.toNat ∧ s.pc.toNat ≤ 0x19) :
    s.chunksLoaded = 8 * (s.blocks - s.blkcnt.toNat - 1) + (s.pc.toNat - 0x08) / 2 := by
  simp only [State.chunksLoaded]
  rw [if_neg (by omega), if_neg (by omega), if_pos h.2]

theorem State.chunksLoaded_fixedTail (h : 0x1A ≤ s.pc.toNat ∧ s.pc.toNat ≤ 0x21) :
    s.chunksLoaded = 8 * s.blocks := by
  simp only [State.chunksLoaded]
  rw [if_neg (by omega), if_neg (by omega), if_neg (by omega), if_pos h.2]

theorem State.chunksLoaded_tailChunks (h : 0x22 ≤ s.pc.toNat ∧ s.pc.toNat ≤ 0x35) :
    s.chunksLoaded = 8 * s.blocks + (s.pc.toNat - 0x20) / 3 := by
  simp only [State.chunksLoaded]
  rw [if_neg (by omega), if_neg (by omega), if_neg (by omega), if_neg (by omega), if_pos h.2]

theorem State.chunksLoaded_afterTail (h : 0x36 ≤ s.pc.toNat) : s.chunksLoaded = 8 * s.blocks + s.chunks := by
  simp only [State.chunksLoaded]
  rw [if_neg (by omega), if_neg (by omega), if_neg (by omega), if_neg (by omega), if_neg (by omega)]

/-- 1 when the chunks of the tail end by a branch, 0 when they end at the last word of the tail. -/
def State.tailBranch (s : State) : Nat := if s.chunks < 7 then 1 else 0

theorem State.chunks_lt (s : State) : s.chunks < 8 := Nat.mod_lt _ (by decide)

theorem State.tailBranch_of_lt (h : s.chunks < 7) : s.tailBranch = 1 := if_pos h

theorem State.tailBranch_of_eq (h : s.chunks = 7) : s.tailBranch = 0 := if_neg (by omega)

theorem State.stepsLeft_head (h : s.pc.toNat ≤ 0x08) :
    s.stepsLeft = (0x08 - s.pc.toNat) + 18 * s.blkcnt.toNat + 3 * s.chcnt.toNat + s.tailBranch + 28 := by
  simp only [State.stepsLeft, State.tailBranch]
  by_cases h8 : s.pc.toNat = 0x08
  · rw [if_neg (by omega), if_pos h8]
    omega
  · rw [if_pos (by omega)]
    omega

theorem State.stepsLeft_inBlock (h : 0x09 ≤ s.pc.toNat ∧ s.pc.toNat ≤ 0x19) :
    s.stepsLeft = (0x1A - s.pc.toNat) + 18 * s.blkcnt.toNat + 3 * s.chcnt.toNat + s.tailBranch + 28 := by
  simp only [State.stepsLeft, State.tailBranch]
  rw [if_neg (by omega), if_neg (by omega), if_pos h.2]
  omega

theorem State.stepsLeft_fixedTail (h : 0x1A ≤ s.pc.toNat ∧ s.pc.toNat ≤ 0x21) :
    s.stepsLeft = (0x21 - s.pc.toNat) + 3 * s.chcnt.toNat + s.tailBranch + 20 := by
  simp only [State.stepsLeft, State.tailBranch]
  rw [if_neg (by omega), if_neg (by omega), if_neg (by omega), if_pos h.2]
  omega

theorem State.stepsLeft_tailChunks (h : 0x22 ≤ s.pc.toNat ∧ s.pc.toNat ≤ 0x35) :
    s.stepsLeft = (2 - (s.pc.toNat - 0x22) % 3) % 3 + 3 * s.chcnt.toNat + s.tailBranch + 20 := by
  simp only [State.stepsLeft, State.tailBranch]
  rw [if_neg (by omega), if_neg (by omega), if_neg (by omega), if_neg (by omega), if_pos h.2]
  omega

theorem State.stepsLeft_afterTail (h : 0x36 ≤ s.pc.toNat) : s.stepsLeft = 0x4A - s.pc.toNat := by
  simp only [State.stepsLeft]
  rw [if_neg (by omega), if_neg (by omega), if_neg (by omega), if_neg (by omega), if_neg (by omega)]

end Places

/-! ### A move keeps the run on track -/

section Moves
variable {s t : State} (h : s.OnTrack) (hm : Moved s t) (hlen : t.dataLen = s.dataLen) (hbusy : t.busy = true)
include h hm hlen hbusy

/-- Only LDC loads a chunk, and it is the only one to write the pointer. -/
theorem Moved.ptr_and_chunksLoaded :
    (t.ptr = s.ptr ∧ t.chunksLoaded = s.chunksLoaded) ∨
    (t.ptr = s.ptr + 32#64 ∧ t.chunksLoaded = s.chunksLoaded + 1) := by
  have hblocks : t.blocks = s.blocks := congrArg (·.toNat / 256) hlen
  have hchunks : t.chunks = s.chunks := congrArg (·.toNat / 32 % 8) hlen
  have hlt := s.chunks_lt
  cases hm with
  | onward place pc counters =>
    refine .inl ⟨counters.ptr, ?_⟩
    rcases place with hp | hp | hp | hp | hp
    · by_cases hlast : s.pc.toNat = 0x07
      · have hseed := h.seeding hp
        rw [State.chunksLoaded_seeding hp, State.chunksLoaded_looping (by omega), hblocks, counters.blkcnt]
        omega
      · rw [State.chunksLoaded_seeding hp, State.chunksLoaded_seeding (by omega)]
    · rw [State.chunksLoaded_inBlock (by omega), State.chunksLoaded_inBlock (s := s) (by omega), hblocks,
        counters.blkcnt, pc]
      omega
    · rw [State.chunksLoaded_fixedTail (by omega), State.chunksLoaded_fixedTail (s := s) (by omega), hblocks]
    · rw [State.chunksLoaded_tailChunks (s := s) (by omega)]
      by_cases hlast : s.pc.toNat = 0x35
      · have htail := h.tailChunks (by omega) (by omega)
        rw [State.chunksLoaded_afterTail (by omega), hblocks, hchunks]
        omega
      · rw [State.chunksLoaded_tailChunks (by omega), hblocks, pc]
        omega
    · rw [State.chunksLoaded_afterTail (by omega), State.chunksLoaded_afterTail (s := s) (by omega), hblocks,
        hchunks]
  | chunk place pc ptr blkcnt chcnt =>
    refine .inr ⟨ptr, ?_⟩
    rcases place with hp | hp
    · have hin := h.inBlock (by omega) (by omega)
      rw [State.chunksLoaded_inBlock (by omega), State.chunksLoaded_inBlock (s := s) (by omega), hblocks, blkcnt,
        pc]
      omega
    · rw [State.chunksLoaded_tailChunks (by omega), State.chunksLoaded_tailChunks (s := s) (by omega), hblocks, pc]
      omega
  | enterBlock place pc ptr blkcnt chcnt =>
    have hloop := h.looping place
    rw [State.chunksLoaded_looping place, State.chunksLoaded_inBlock (by omega), hblocks, pc]
    exact .inl ⟨ptr, by omega⟩
  | leaveLoop place left pc counters =>
    rw [State.chunksLoaded_looping place, State.chunksLoaded_fixedTail (by omega), hblocks, left]
    exact .inl ⟨counters.ptr, by omega⟩
  | repeatLoop place pc counters =>
    have hin := h.inBlock (by omega) (by omega)
    rw [State.chunksLoaded_looping pc, State.chunksLoaded_inBlock (by omega), hblocks, counters.blkcnt, place]
    exact .inl ⟨counters.ptr, by omega⟩
  | enterChunk place pc ptr blkcnt chcnt =>
    refine .inl ⟨ptr, ?_⟩
    rw [State.chunksLoaded_tailChunks (s := t) (by omega), hblocks, pc]
    by_cases hfirst : s.pc.toNat = 0x21
    · rw [State.chunksLoaded_fixedTail (by omega)]
      omega
    · rw [State.chunksLoaded_tailChunks (by omega)]
      omega
  | leaveTail place left pc counters =>
    refine .inl ⟨counters.ptr, ?_⟩
    rw [State.chunksLoaded_afterTail (s := t) (by omega), hblocks, hchunks]
    by_cases hfirst : s.pc.toNat = 0x21
    · have hall := h.allChunks (by omega)
      rw [State.chunksLoaded_fixedTail (by omega)]
      omega
    · have htail := h.tailChunks (by omega) (by omega)
      rw [State.chunksLoaded_tailChunks (by omega)]
      omega
  | finish place result => rw [result] at hbusy; exact absurd hbusy Bool.false_ne_true

theorem Moved.onTrack (haddr : t.dataAddr = s.dataAddr) : t.OnTrack := by
  have hptr : t.ptr = t.dataAddr + BitVec.ofNat 64 (32 * t.chunksLoaded) := by
    rcases hm.ptr_and_chunksLoaded h hlen hbusy with ⟨hp, hn⟩ | ⟨hp, hn⟩
    · rw [hp, hn, haddr, h.pointer]
    · rw [hp, hn, haddr, h.pointer, Nat.mul_add, BitVec.ofNat_add, BitVec.add_assoc]
  have hblocks : t.blocks = s.blocks := congrArg (·.toNat / 256) hlen
  have hchunks : t.chunks = s.chunks := congrArg (·.toNat / 32 % 8) hlen
  have hlt := s.chunks_lt
  obtain ⟨hseed, hloop, hin, hnone, hall, htail, hzero, -⟩ := h
  constructor
  case pointer => exact hptr
  all_goals cases hm with
  | onward place pc counters | leaveLoop place left pc counters | repeatLoop place pc counters
  | leaveTail place left pc counters =>
    simp only [pc, hblocks, hchunks, counters.blkcnt, counters.chcnt]
    omega
  | chunk place pc ptr blkcnt chcnt =>
    simp only [pc, hblocks, hchunks, blkcnt, chcnt]
    omega
  | enterBlock place pc ptr blkcnt chcnt =>
    simp only [pc, hblocks, hchunks, chcnt]
    omega
  | enterChunk place pc ptr blkcnt chcnt =>
    simp only [pc, hblocks, hchunks, blkcnt]
    omega
  | finish place result => rw [result] at hbusy; exact absurd hbusy Bool.false_ne_true

theorem Moved.stepsLeft : t.stepsLeft + 1 = s.stepsLeft := by
  have hbranch : t.tailBranch = s.tailBranch :=
    congrArg (fun len : Quad => if len.toNat / 32 % 8 < 7 then 1 else 0) hlen
  have hlt := s.chunks_lt
  cases hm with
  | onward place pc counters =>
    rcases place with hp | hp | hp | hp | hp
    · rw [State.stepsLeft_head (by omega), State.stepsLeft_head (s := s) (by omega), hbranch, counters.blkcnt,
        counters.chcnt, pc]
      omega
    · rw [State.stepsLeft_inBlock (by omega), State.stepsLeft_inBlock (s := s) (by omega), hbranch,
        counters.blkcnt, counters.chcnt, pc]
      omega
    · rw [State.stepsLeft_fixedTail (by omega), State.stepsLeft_fixedTail (s := s) (by omega), hbranch,
        counters.chcnt, pc]
      omega
    · rw [State.stepsLeft_tailChunks (s := s) (by omega)]
      by_cases hlast : s.pc.toNat = 0x35
      · have htail := h.tailChunks (by omega) (by omega)
        rw [State.stepsLeft_afterTail (by omega), State.tailBranch_of_eq (by omega), pc]
        omega
      · rw [State.stepsLeft_tailChunks (by omega), hbranch, counters.chcnt, pc]
        omega
    · rw [State.stepsLeft_afterTail (by omega), State.stepsLeft_afterTail (s := s) (by omega), pc]
      omega
  | chunk place pc ptr blkcnt chcnt =>
    rcases place with hp | hp
    · rw [State.stepsLeft_inBlock (by omega), State.stepsLeft_inBlock (s := s) (by omega), hbranch, blkcnt, chcnt,
        pc]
      omega
    · rw [State.stepsLeft_tailChunks (by omega), State.stepsLeft_tailChunks (s := s) (by omega), hbranch, chcnt, pc]
      omega
  | enterBlock place pc ptr blkcnt chcnt =>
    rw [State.stepsLeft_inBlock (by omega), State.stepsLeft_head (s := s) (by omega), hbranch, chcnt, pc]
    omega
  | leaveLoop place left pc counters =>
    rw [State.stepsLeft_fixedTail (by omega), State.stepsLeft_head (s := s) (by omega), hbranch, counters.chcnt,
      pc]
    omega
  | repeatLoop place pc counters =>
    rw [State.stepsLeft_head (by omega), State.stepsLeft_inBlock (s := s) (by omega), hbranch, counters.blkcnt,
      counters.chcnt, pc]
    omega
  | enterChunk place pc ptr blkcnt chcnt =>
    rw [State.stepsLeft_tailChunks (s := t) (by omega), hbranch, pc]
    by_cases hfirst : s.pc.toNat = 0x21
    · rw [State.stepsLeft_fixedTail (by omega)]
      omega
    · rw [State.stepsLeft_tailChunks (by omega)]
      omega
  | leaveTail place left pc counters =>
    rw [State.stepsLeft_afterTail (s := t) (by omega), pc]
    by_cases hfirst : s.pc.toNat = 0x21
    · have hall := h.allChunks (by omega)
      rw [State.stepsLeft_fixedTail (by omega), State.tailBranch_of_lt (by omega)]
      omega
    · have htail := h.tailChunks (by omega) (by omega)
      rw [State.stepsLeft_tailChunks (by omega), State.tailBranch_of_lt (by omega)]
      omega
  | finish place result => rw [result] at hbusy; exact absurd hbusy Bool.false_ne_true

end Moves

/-- At FIN one step is left. -/
theorem State.stepsLeft_fin {s : State} (h : s.pc.toNat = 0x49) : s.stepsLeft = 1 := by
  rw [State.stepsLeft_afterTail (by omega), h]

/-! ### The steps -/

/-- Taking a turn off the script does not move the run. -/
theorem State.OnTrack.setScript {s : State} (h : s.OnTrack) (ts : List Turn) : (s.setScript ts).OnTrack :=
  h.of_eq rfl ⟨rfl, rfl, rfl⟩ rfl rfl

theorem State.OnTrack.sequencerTurn {s t : State} (hinv : s.Inv) (h : s.busy = true → s.OnTrack)
    (ht : sequencerTurn s = .next t) (htbusy : t.busy = true) : t.OnTrack := by
  cases hbusy : s.busy with
  | false =>
    rw [sequencerTurn_idle hbusy] at ht
    obtain rfl := Host.Outcome.next.inj ht
    exact h htbusy
  | true =>
    rcases sequencerTurn_next_busy hinv hbusy ht with ⟨-, rfl⟩ | ⟨hm, hw⟩
    · exact absurd htbusy Bool.false_ne_true
    · obtain ⟨-, hregs, -⟩ := innerStep_of_withoutWork_eq hw
      exact hm.onTrack (h hbusy) hregs.dataLen htbusy hregs.dataAddr

/-- START puts a run on track: the counters hold the whole input and no chunk is loaded. -/
theorem State.launch_onTrack (s : State) : s.launch.OnTrack where
  seeding _ := blocksOf_toNat s.dataLen
  allChunks _ := chunksOf_toNat s.dataLen
  pointer := by simp [State.chunksLoaded]
  looping h := absurd h (by simp)
  inBlock h := absurd h (by simp)
  noBlocks h := absurd h (by simp)
  tailChunks h := absurd h (by simp)
  noChunks h := absurd h (by simp)

theorem State.OnTrack.hostAct {s t : State} {a : HostAction} (h : s.busy = true → s.OnTrack)
    (ht : hostAct a s = .next t) (htbusy : t.busy = true) : t.OnTrack := by
  cases a with
  | write r v =>
    rcases hostWrite_next ht with rfl | ⟨hidle, -, rfl⟩ | ⟨-, -, -, rfl⟩ | ⟨hidle, rfl⟩ |
      ⟨hidle, rfl | rfl | rfl | rfl⟩
    case inr.inr.inl => exact s.clearStatus.launch_onTrack
    case inl => exact h htbusy
    all_goals exact absurd (hidle.symm.trans htbusy) Bool.false_ne_true
  | rst => cases ht; exact absurd htbusy Bool.false_ne_true
  | read r | protect p | unprotect p => cases ht; exact (h htbusy).of_eq rfl ⟨rfl, rfl, rfl⟩ rfl rfl
  | store addr b =>
    obtain ⟨rfl, -⟩ := platformStore_next ht
    exact (h htbusy).of_eq rfl ⟨rfl, rfl, rfl⟩ rfl rfl

/-- Settles O47: an idle sequencer's turn leaves the block idle, START puts a run on track, the host's other
actions leave its place alone, and the sequencer moves it in one of the eight ways. -/
theorem everyStepKeepsTheRunOnTrack : Obligations.EveryStepKeepsTheRunOnTrack := by
  intro s t hinv h ht htbusy
  have hoff (rest : List Turn) : (s.setScript rest).busy = true → (s.setScript rest).OnTrack :=
    fun hb => (h hb).setScript rest
  rcases step_cases s with ⟨-, hstep⟩ | ⟨rest, -, hstep⟩ | ⟨a, rest, -, hstep⟩ <;> rw [hstep] at ht
  · exact State.OnTrack.sequencerTurn hinv h ht htbusy
  · exact State.OnTrack.sequencerTurn (hinv.setScript rest) (hoff rest) ht htbusy
  · exact State.OnTrack.hostAct (hoff rest) ht htbusy

/-- Settles O48: FIN is the one step left at its place, and every other move takes one off the count. -/
theorem everyStepNearsTheEnd : Obligations.EveryStepNearsTheEnd := by
  intro s t hinv hbusy h hscript ht
  have hturn : sequencerTurn s = .next t := (nextTurn_nil hscript).symm.trans ht
  rcases sequencerTurn_next_busy hinv hbusy hturn with ⟨hk, rfl⟩ | ⟨hm, hw⟩
  · exact .inr ⟨rfl, rfl, State.stepsLeft_fin hk⟩
  · obtain ⟨hflags, hregs, -⟩ := innerStep_of_withoutWork_eq hw
    have htbusy : t.busy = true := hflags.busy.trans hbusy
    exact .inl ⟨htbusy, hm.stepsLeft h hregs.dataLen htbusy⟩

end Sys2Proof.Machine
end

section
/-!
PROOFS. The partial read and the residual (43_tail_processor.md R170, R176, R178). The idea: the masks of the page
test are multiples of 16 and of 4096, so that the whole test is one of linear arithmetic on addresses that do not
wrap.
-/

namespace Sys2Proof.Machine

/-! ### The addresses of the tail as numbers -/

/-- Clearing the low four bits leaves the multiple of 16 below. -/
theorem and_not_15 (x : Quad) : x &&& ~~~0xF#64 = BitVec.ofNat 64 (x.toNat / 16 * 16) := by
  have hmask (k : Nat) : (0xF#64).getLsbD k = decide (k < 4) := by
    rw [show (0xF#64) = BitVec.ofNat 64 (2 ^ 4 - 1) from rfl, BitVec.getLsbD_ofNat, Nat.testBit_two_pow_sub_one]
    by_cases hk : k < 4
    · simp [hk, show k < 64 by omega]
    · simp [hk]
  have hshift : x &&& ~~~0xF#64 = (x >>> 4) <<< 4 := by
    apply BitVec.eq_of_getLsbD_eq
    intro k hk
    rw [BitVec.getLsbD_and, BitVec.getLsbD_not, hmask, BitVec.getLsbD_shiftLeft, BitVec.getLsbD_ushiftRight]
    by_cases h4 : k < 4
    · simp [h4]
    · simp [h4, hk, show 4 + (k - 4) = k by omega]
  apply BitVec.eq_of_toNat_eq
  rw [hshift, BitVec.toNat_shiftLeft, BitVec.toNat_ushiftRight, BitVec.toNat_ofNat, Nat.shiftLeft_eq,
    Nat.shiftRight_eq_div_pow]

/-- Setting the low twelve bits gives the last byte of the page. -/
theorem or_fff_toNat (x : Quad) : (x ||| 0xFFF#64).toNat = x.toNat / 4096 * 4096 + 4095 := by
  have hx := x.isLt
  have hsplit : x ||| 0xFFF#64 = (x >>> 12) <<< 12 ||| 0xFFF#64 := by
    apply BitVec.eq_of_getLsbD_eq
    intro k hk
    have hmask : (0xFFF#64).getLsbD k = decide (k < 12) := by
      rw [show (0xFFF#64) = BitVec.ofNat 64 (2 ^ 12 - 1) from rfl, BitVec.getLsbD_ofNat,
        Nat.testBit_two_pow_sub_one]
      simp [hk]
    rw [BitVec.getLsbD_or, BitVec.getLsbD_or, hmask, BitVec.getLsbD_shiftLeft, BitVec.getLsbD_ushiftRight]
    by_cases h12 : k < 12
    · simp [h12]
    · simp [h12, hk, show 12 + (k - 12) = k by omega]
  have hdiv : (x >>> 12).toNat = x.toNat / 4096 := by
    rw [BitVec.toNat_ushiftRight, Nat.shiftRight_eq_div_pow]
  rw [hsplit, toNat_shiftLeft_or (by rw [hdiv]; omega) (by decide), hdiv]
  rfl

theorem lastAddr_eq (addr len : Quad) : lastAddr addr len = addr + BitVec.ofNat 64 (len.toNat / 16 * 16) := by
  rw [lastAddr, and_not_15]

section Fits
variable {addr len : Quad} (hpart : len.toNat % 16 ≠ 0) (hfit : addr.toNat + len.toNat ≤ 2 ^ 64)
include hpart hfit

theorem lastAddr_toNat : (lastAddr addr len).toNat = addr.toNat + len.toNat / 16 * 16 := by
  rw [lastAddr_eq, BitVec.toNat_add, BitVec.toNat_ofNat]
  omega

theorem lastPageEnd_toNat :
    (lastPageEnd addr len).toNat = (addr.toNat + len.toNat - 1) / 4096 * 4096 + 4095 := by
  have hlast : (addr + len - 1#64).toNat = addr.toNat + len.toNat - 1 := by
    rw [BitVec.toNat_sub, BitVec.toNat_add, BitVec.toNat_ofNat]
    omega
  rw [lastPageEnd, or_fff_toNat, hlast]

/-- The two ways of the page test: the window ends in the page of the last input byte, or it is shifted to the
last sixteen bytes of that page. -/
theorem alignOf_cases :
    (alignOf addr len = 0 ∧ addr.toNat + len.toNat / 16 * 16 + 15 ≤
      (addr.toNat + len.toNat - 1) / 4096 * 4096 + 4095) ∨
    (alignOf addr len = (addr.toNat + len.toNat / 16 * 16) % 16 ∧
      (addr.toNat + len.toNat - 1) / 4096 * 4096 + 4095 < addr.toNat + len.toNat / 16 * 16 + 15) := by
  rw [alignOf_eq, lastAddr_toNat hpart hfit, lastPageEnd_toNat hpart hfit]
  split_ifs with hcross
  · exact .inr ⟨rfl, hcross⟩
  · exact .inl ⟨rfl, Nat.le_of_not_lt hcross⟩

/-- Every wanted byte is in the window. -/
theorem alignOf_add_tail_le : alignOf addr len + len.toNat % 16 ≤ 16 := by
  have := alignOf_cases hpart hfit
  omega

theorem partialAddr_toNat :
    (partialAddr addr len).toNat = addr.toNat + len.toNat / 16 * 16 - alignOf addr len := by
  have halign := alignOf_cases hpart hfit
  rw [partialAddr, BitVec.toNat_sub, lastAddr_toNat hpart hfit, BitVec.toNat_ofNat]
  omega

end Fits

/-- Settles O49, in the two ways of the page test. -/
theorem partialReadIsPageSafe : Obligations.PartialReadIsPageSafe := by
  intro addr len hpart hfit
  have halign := alignOf_cases hpart hfit
  rw [partialAddr_toNat hpart hfit]
  refine ⟨alignOf_add_tail_le hpart hfit, by omega, fun i hi => ?_⟩
  rcases halign with ⟨h0, hpage⟩ | ⟨hmod, hpage⟩
  · rw [h0]
    omega
  · rw [hmod]
    omega

/-! ### LDP and LDF on an input that does not wrap (R170, R176) -/

/-- The input of the run as a byte sequence. -/
def State.input (s : State) (k : Nat) : Byte := s.byteAt (s.dataAddr + BitVec.ofNat 64 k)

theorem InnerStep.input_eq {s t : State} (h : InnerStep s t) : t.input = s.input :=
  funext fun k => by rw [State.input, State.input, h.hostRegs.dataAddr, h.outside.byteAt]

theorem byteOf_zero (i : Nat) : byteOf 0#128 i = 0#8 := by
  simp [byteOf]

/-- The wanted bytes of the partial read, shifted or not. -/
theorem byteAt_partial (s : State) (hfit : s.dataAddr.toNat + s.dataLen.toNat ≤ 2 ^ 64) {i : Nat}
    (hi : i < s.dataLen.toNat % 16) :
    s.byteAt (partialAddr s.dataAddr s.dataLen +
      BitVec.ofNat 64 ((i + alignOf s.dataAddr s.dataLen) % 16)) = s.input (s.dataLen.toNat / 16 * 16 + i) := by
  have hpart : s.dataLen.toNat % 16 ≠ 0 := by omega
  have hwanted := alignOf_add_tail_le hpart hfit
  have halign := alignOf_cases hpart hfit
  refine congrArg s.byteAt (BitVec.eq_of_toNat_eq ?_)
  rw [BitVec.toNat_add, BitVec.toNat_add, partialAddr_toNat hpart hfit, BitVec.toNat_ofNat, BitVec.toNat_ofNat]
  omega

/-- LDP leaves the last `L mod 16` bytes of the input in `IX`. -/
theorem exec_ldp_ix {s t : State} (hfit : s.dataAddr.toNat + s.dataLen.toNat ≤ 2 ^ 64)
    (h : exec .ldp s = .next t) {i : Nat} (hi : i < 16) :
    byteOf t.ix i = if i < s.dataLen.toNat % 16 then s.input (s.dataLen.toNat / 16 * 16 + i) else 0#8 := by
  rcases exec_ldp_next h with ⟨hwhole, rfl⟩ | ⟨-, -, rfl⟩
  · rw [tailLenOf_eq] at hwhole
    rw [s.partialCleared_ix, byteOf_zero, if_neg (by omega)]
  · rw [s.partialLoaded_ix, byteOf_partialOf_window s _ _ _ hi, tailLenOf_eq]
    split_ifs with hlt
    · exact byteAt_partial s hfit hlt
    · rfl

theorem exec_ldp_iz {s t : State} (h : exec .ldp s = .next t) : t.iz = 0#128 := by
  rcases exec_ldp_next h with ⟨-, rfl⟩ | ⟨-, -, rfl⟩
  · exact s.partialCleared_iz
  · exact s.partialLoaded_iz

/-- Settles O50: every wanted byte lies in the window, and the rotation undoes the shift. -/
theorem ldpYieldsTheLastBytes : Obligations.LdpYieldsTheLastBytes :=
  fun _ _ hfit h => ⟨exec_ldp_iz h, fun _ hi => exec_ldp_ix hfit h hi⟩

/-- The 16 bytes before the partial. -/
theorem lastAddr_sub_16 (addr : Quad) {len : Quad} (h : 16 ≤ len.toNat) :
    lastAddr addr len - 16#64 = addr + BitVec.ofNat 64 (len.toNat / 16 * 16 - 16) := by
  have hsplit : len.toNat / 16 * 16 = (len.toNat / 16 * 16 - 16) + 16 := by omega
  rw [lastAddr_eq, hsplit, BitVec.ofNat_add, ← BitVec.add_assoc, BitVec.add_sub_cancel]
  rfl

/-! ### A list of micro-operations -/

theorem execAll_cons {i : Instr} {s u : State} (h : exec i s = .next u) (rest : List Instr) :
    execAll (i :: rest) s = execAll rest u := by
  rw [execAll, h]

theorem execAll_cons_next {i : Instr} {rest : List Instr} {s t : State} (h : execAll (i :: rest) s = .next t) :
    ∃ u, exec i s = .next u ∧ execAll rest u = .next t := by
  cases hi : exec i s with
  | next u => exact ⟨u, rfl, (execAll_cons hi rest).symm.trans h⟩
  | fault r => rw [execAll, hi] at h; cases h
  | refused r => rw [execAll, hi] at h; cases h

theorem execAll_append {l : List Instr} {s u : State} (h : execAll l s = .next u) (rest : List Instr) :
    execAll (l ++ rest) s = execAll rest u := by
  induction l generalizing s with
  | nil => rw [List.nil_append, Host.Outcome.next.inj h]
  | cons i l ih =>
    obtain ⟨v, hi, hl⟩ := execAll_cons_next h
    rw [List.cons_append, execAll_cons hi, ih hl]

theorem execAll_append_next {l rest : List Instr} {s t : State} (h : execAll (l ++ rest) s = .next t) :
    ∃ u, execAll l s = .next u ∧ execAll rest u = .next t := by
  induction l generalizing s with
  | nil => exact ⟨s, rfl, h⟩
  | cons i l ih =>
    obtain ⟨v, hi, hl⟩ := execAll_cons_next h
    obtain ⟨u, hu, ht⟩ := ih hl
    exact ⟨u, (execAll_cons hi l).trans hu, ht⟩

/-- Micro-operations other than FIN one after the other have the frame of an inner step. -/
theorem execAll_next_innerStep {l : List Instr} (hl : Instr.fin ∉ l) {s t : State} (h : execAll l s = .next t) :
    InnerStep s t := by
  induction l generalizing s with
  | nil => exact Host.Outcome.next.inj h ▸ innerStep_of_withoutWork_eq rfl
  | cons i l ih =>
    obtain ⟨u, hi, hu⟩ := execAll_cons_next h
    have hne : i ≠ .fin := fun he => hl (he ▸ List.mem_cons_self)
    exact (exec_next_innerStep hne hi).trans (ih (fun hmem => hl (List.mem_cons_of_mem i hmem)) hu)

/-! ### The residual (R176) -/

/-- After LDP and LDF: `IX` holds the first half of the residual and `IZ` the second. -/
theorem execAll_ldp_ldf {s t : State} (hfit : s.dataAddr.toNat + s.dataLen.toNat ≤ 2 ^ 64)
    (h : execAll [.ldp, .ldf] s = .next t) :
    t.ix = slice (residual s.input s.dataLen.toNat) 0 ∧ t.iz = slice (residual s.input s.dataLen.toNat) 16 := by
  obtain ⟨u, hldp, h⟩ := execAll_cons_next h
  obtain ⟨v, hldf, h⟩ := execAll_cons_next h
  obtain rfl := Host.Outcome.next.inj h
  have hinner : InnerStep s u := exec_next_innerStep (by decide) hldp
  have hinput := hinner.input_eq
  have haddr := hinner.hostRegs.dataAddr
  have hlen := hinner.hostRegs.dataLen
  rcases exec_ldf_next hldf with ⟨hshort, rfl⟩ | ⟨hfull, -, rfl⟩
  · rw [hlen, full16Of_eq, decide_eq_false_iff_not] at hshort
    refine ⟨byteOf_ext fun i hi => ?_, byteOf_ext fun i hi => ?_⟩
    · rw [slice, byteOf_ofBytes _ hi, State.advance_ix, exec_ldp_ix hfit hldp hi, residual, Nat.zero_add,
        show s.dataLen.toNat % 32 = s.dataLen.toNat % 16 by omega,
        show s.dataLen.toNat - s.dataLen.toNat % 16 = s.dataLen.toNat / 16 * 16 by omega]
    · rw [slice, byteOf_ofBytes _ hi, State.advance_iz, exec_ldp_iz hldp, byteOf_zero, residual, if_neg (by omega)]
  · rw [hlen, full16Of_eq, decide_eq_true_iff] at hfull
    refine ⟨byteOf_ext fun i hi => ?_, byteOf_ext fun i hi => ?_⟩
    · have hbyte : u.byteAt (lastAddr u.dataAddr u.dataLen - 16#64 + BitVec.ofNat 64 i) =
          s.input (s.dataLen.toNat / 16 * 16 - 16 + i) := by
        rw [haddr, hlen, lastAddr_sub_16 _ (by omega), BitVec.add_assoc, ← BitVec.ofNat_add, hinner.outside.byteAt]
        rfl
      rw [slice, byteOf_ofBytes _ hi, u.residualLoaded_ix, byteOf_window _ _ hi, hbyte, residual,
        if_pos (by omega)]
      congr 1
      omega
    · rw [slice, byteOf_ofBytes _ hi, u.residualLoaded_iz, exec_ldp_ix hfit hldp hi, residual]
      by_cases hlt : i < s.dataLen.toNat % 16
      · rw [if_pos hlt, if_pos (by omega)]
        congr 1
        omega
      · rw [if_neg hlt, if_neg (by omega)]

/-- Settles O51: the bytes of the two halves. -/
theorem residualIsTheLastBytes : Obligations.ResidualIsTheLastBytes := by
  intro s t hfit h j hj
  obtain ⟨hix, hiz⟩ := execAll_ldp_ldf hfit h
  rw [hix, hiz, slice, slice, byteOf_ofBytes _ hj, byteOf_ofBytes _ hj, Nat.zero_add]
  exact ⟨rfl, rfl⟩

end Sys2Proof.Machine
end

section
/-!
PROOFS. No fault in a run whose pages are readable (20_memory.md R56, R57). The idea: each window a run reads lies
in pages that hold a byte of the seed or of the input; for the window of the partial that is its page safety.
-/

namespace Sys2Proof.Machine

/-! ### Owned pages -/

/-- The pages of the run, with their constants. -/
theorem State.ownsPage_iff (s : State) (p : Nat) :
    s.ownsPage p = true ↔
      (s.seedAddr.toNat / 4096 ≤ p ∧ p ≤ (s.seedAddr.toNat + 127) / 4096) ∨
      (0 < s.dataLen.toNat ∧ s.dataAddr.toNat / 4096 ≤ p ∧
        p ≤ (s.dataAddr.toNat + s.dataLen.toNat - 1) / 4096) := by
  simp only [State.ownsPage, Bool.or_eq_true, Bool.and_eq_true, decide_eq_true_iff, and_assoc]
  rfl

section Owned
variable {s : State} (hown : s.ownedReadable)
include hown

theorem State.readable_of_ownsPage {a : Quad} (h : s.ownsPage (a.toNat / 4096) = true) : s.readable a = true := by
  rw [readable_iff]
  intro hmem
  rw [hown _ hmem] at h
  cases h

/-- A window that does not wrap, in owned pages. -/
theorem State.windowReadable_of_ownsPage {addr : Quad} (hwrap : addr.toNat + 15 < 2 ^ 64)
    (h : ∀ i < 16, s.ownsPage ((addr.toNat + i) / 4096) = true) : s.windowReadable addr = true := by
  rw [windowReadable_iff]
  intro i hi
  have haddr : (addr + BitVec.ofNat 64 i).toNat = addr.toNat + i := by
    rw [BitVec.toNat_add, BitVec.toNat_ofNat]
    omega
  exact State.readable_of_ownsPage hown (by rw [haddr]; exact h i hi)

/-- The window of a SEED, whichever lane it loads. -/
theorem State.seedWindow_readable (hfit : s.seedAddr.toNat + 128 ≤ 2 ^ 64) (a : LaneNo) :
    s.windowReadable (seedReadAddr s a) = true := by
  have ha := a.isLt
  have haddr : (seedReadAddr s a).toNat = s.seedAddr.toNat + 16 * a.toNat := by
    rw [seedReadAddr, BitVec.toNat_add, BitVec.toNat_ofNat]
    omega
  refine State.windowReadable_of_ownsPage hown (by omega) fun i hi => ?_
  rw [haddr, s.ownsPage_iff]
  exact .inl ⟨by omega, by omega⟩

/-- Sixteen bytes of the input. -/
theorem State.inputWindow_readable (hfit : s.dataAddr.toNat + s.dataLen.toNat ≤ 2 ^ 64) {o : Nat}
    (ho : o + 16 ≤ s.dataLen.toNat) : s.windowReadable (s.dataAddr + BitVec.ofNat 64 o) = true := by
  have haddr : (s.dataAddr + BitVec.ofNat 64 o).toNat = s.dataAddr.toNat + o := by
    rw [BitVec.toNat_add, BitVec.toNat_ofNat]
    omega
  refine State.windowReadable_of_ownsPage hown (by omega) fun i hi => ?_
  rw [haddr, s.ownsPage_iff]
  exact .inr ⟨by omega, by omega, by omega⟩

/-- The four windows of a chunk that lies in the input. -/
theorem State.chunkReadable_of_owned (hfit : s.dataAddr.toNat + s.dataLen.toNat ≤ 2 ^ 64) {n : Nat}
    (hptr : s.ptr = s.dataAddr + BitVec.ofNat 64 (32 * n)) (hn : 32 * n + 32 ≤ s.dataLen.toNat) :
    s.chunkReadable := by
  have hwin (k : Nat) (hk : k ≤ 16) : s.windowReadable (s.ptr + BitVec.ofNat 64 k) = true := by
    rw [hptr, BitVec.add_assoc, ← BitVec.ofNat_add]
    exact State.inputWindow_readable hown hfit (by omega)
  exact ⟨hwin 15 (by decide), by simpa using hwin 0 (by decide), hwin 1 (by decide), hwin 16 (by decide)⟩

/-- The window of the partial: it lies between the pages of the first and of the last input byte. -/
theorem State.partialWindow_readable (hfit : s.dataAddr.toNat + s.dataLen.toNat ≤ 2 ^ 64)
    (hpart : tailLenOf s.dataLen ≠ 0) : s.windowReadable (partialAddr s.dataAddr s.dataLen) = true := by
  rw [tailLenOf_eq] at hpart
  obtain ⟨-, hwrap, hpages⟩ := partialReadIsPageSafe s.dataAddr s.dataLen hpart hfit
  refine State.windowReadable_of_ownsPage hown hwrap fun i hi => ?_
  rw [s.ownsPage_iff]
  exact .inr ⟨by omega, hpages i hi⟩

/-- The window of LDF: the 16 bytes before the partial. -/
theorem State.fullWindow_readable (hfit : s.dataAddr.toNat + s.dataLen.toNat ≤ 2 ^ 64)
    (hfull : full16Of s.dataLen = true) :
    s.windowReadable (lastAddr s.dataAddr s.dataLen - 16#64) = true := by
  rw [full16Of_eq, decide_eq_true_iff] at hfull
  rw [lastAddr_sub_16 _ (by omega)]
  exact State.inputWindow_readable hown hfit (by omega)

end Owned

/-- Where a run executes LDC the next chunk lies in the input (R156, R177). -/
theorem State.OnTrack.chunk_le {s : State} (h : s.OnTrack)
    (hplace : 0x09 ≤ s.pc.toNat ∧ s.pc.toNat ≤ 0x17 ∧ s.pc.toNat % 2 = 1 ∨
      0x22 ≤ s.pc.toNat ∧ s.pc.toNat ≤ 0x34 ∧ s.pc.toNat % 3 = 1) :
    32 * s.chunksLoaded + 32 ≤ s.dataLen.toNat := by
  have hchunks : s.dataLen.toNat / 32 = 8 * s.blocks + s.chunks := by
    simp only [State.blocks, State.chunks]
    omega
  rcases hplace with hp | hp
  · have hin := h.inBlock (by omega) (by omega)
    rw [State.chunksLoaded_inBlock (by omega)]
    omega
  · have htail := h.tailChunks (by omega) (by omega)
    rw [State.chunksLoaded_tailChunks (by omega)]
    omega

/-! ### The step -/

/-- With the pages of the run readable, what stands at `pc` answers a next state. -/
theorem exists_exec_next {s : State} (hown : s.ownedReadable) (hfit : s.objectsFit = true) (h : s.OnTrack) {i : Instr}
    (hi : listing[s.pc.toNat]? = some i) : ∃ t, exec i s = .next t := by
  obtain ⟨hseedFit, hdataFit⟩ := s.objectsFit_iff.1 hfit
  cases i with
  | seed a => exact ⟨_, exec_seed_readable (State.seedWindow_readable hown hseedFit a)⟩
  | blk target =>
    by_cases hz : s.blkcnt = 0#56
    · exact ⟨_, exec_blk_zero hz target⟩
    · exact ⟨_, exec_blk_nonzero hz target⟩
  | ldc =>
    have hnext := h.chunk_le (stands_of_listing hi).ldc_place
    exact ⟨_, execLdc_readable (State.chunkReadable_of_owned hown hdataFit h.pointer hnext)⟩
  | ldp =>
    by_cases hz : tailLenOf s.dataLen = 0
    · exact ⟨_, exec_ldp_whole hz⟩
    · exact ⟨_, exec_ldp_readable hz (State.partialWindow_readable hown hdataFit hz)⟩
  | ldf =>
    cases hf : full16Of s.dataLen with
    | false => exact ⟨_, exec_ldf_short hf⟩
    | true => exact ⟨_, exec_ldf_readable hf (State.fullWindow_readable hown hdataFit hf)⟩
  | chk target =>
    by_cases hz : s.chcnt = 0#3
    · exact ⟨_, exec_chk_zero hz target⟩
    · exact ⟨_, exec_chk_nonzero hz target⟩
  | mix a b c d e => exact ⟨_, exec_mix a b c d e s⟩
  | jmp target => exact ⟨_, exec_jmp target s⟩
  | inj => exact ⟨_, exec_inj s⟩
  | lenv => exact ⟨_, exec_lenv s⟩
  | shuf a b c d e f => exact ⟨_, exec_shuf a b c d e f s⟩
  | addq a b => exact ⟨_, exec_addq a b s⟩
  | xorv a b => exact ⟨_, exec_xorv a b s⟩
  | fin => exact ⟨_, exec_fin s⟩

/-- The precondition of R56 speaks of the page list and of the host's parameters alone. -/
theorem State.ownedReadable_of_eq {s t : State} (h : s.ownedReadable) (hpages : t.unreadable = s.unreadable)
    (hseed : t.seedAddr = s.seedAddr) (haddr : t.dataAddr = s.dataAddr) (hlen : t.dataLen = s.dataLen) :
    t.ownedReadable := by
  intro p hp
  rw [hpages] at hp
  rw [← h p hp]
  simp only [State.ownsPage, hseed, haddr, hlen]

theorem exec_next_unreadable {i : Instr} {s t : State} (h : exec i s = .next t) : t.unreadable = s.unreadable := by
  by_cases hi : i = .fin
  · subst hi
    rw [exec_fin_next h]
    rfl
  · exact (congrArg State.unreadable (exec_next_withoutWork hi h) :)

/-- Settles O56: every micro-operation of a run answers a next state, and none writes the page list or a
parameter. -/
theorem ownedPagesReadableMeansNoFault : Obligations.OwnedPagesReadableMeansNoFault := by
  intro s hinv hbusy h hown hscript
  obtain ⟨i, hi, hturn⟩ := sequencerTurn_eq_exec hinv hbusy
  obtain ⟨t, ht⟩ := exists_exec_next hown (hinv.fits hbusy) h hi
  obtain ⟨-, hseed, -, haddr, hlen⟩ := noMicroOperationWritesOutside i s t ht
  exact ⟨t, (nextTurn_nil hscript).trans (hturn.trans ht),
    State.ownedReadable_of_eq hown (exec_next_unreadable ht) hseed haddr hlen⟩

end Sys2Proof.Machine
end

section
/-!
PROOFS. The phases of the micro-program (41_seeder.md R141, 42_block_mixer.md R155, 43_tail_processor.md R175,
44_reducer.md R204, R205). The idea: a MIX with the lanes of a quintuple is the hash function's own six
assignments, and the hash reads memory through slices of 16 bytes, which are the windows the machine reads; a
phase is then an induction on the number of its repetitions.
-/

namespace Sys2Proof.Machine

/-! ### Micro-operations that go on to the next word -/

theorem SameCounters.trans {s t u : State} (hst : SameCounters s t) (htu : SameCounters t u) : SameCounters s u :=
  ⟨htu.ptr.trans hst.ptr, htu.blkcnt.trans hst.blkcnt, htu.chcnt.trans hst.chcnt⟩

theorem execAll_next_goesOn {l : List Instr} (hl : ∀ i ∈ l, goesOn i = true) {s t : State}
    (h : execAll l s = .next t) : t.pc = s.pc + BitVec.ofNat 7 l.length ∧ SameCounters s t := by
  induction l generalizing s with
  | nil =>
    obtain rfl := Host.Outcome.next.inj h
    exact ⟨by simp, rfl, rfl, rfl⟩
  | cons i l ih =>
    obtain ⟨u, hi, hu⟩ := execAll_cons_next h
    obtain ⟨hpc, hcnt⟩ := exec_next_goesOn (hl i List.mem_cons_self) hi
    obtain ⟨hpc', hcnt'⟩ := ih (fun j hj => hl j (List.mem_cons_of_mem i hj)) hu
    refine ⟨?_, hcnt.trans hcnt'⟩
    rw [hpc', hpc, List.length_cons, Nat.add_comm, BitVec.ofNat_add, BitVec.add_assoc]

/-! ### The bytes of memory as the hash reads them -/

/-- The bytes of memory from an address on, as a byte sequence. -/
def State.bytesFrom (s : State) (a : Quad) (k : Nat) : Byte := s.byteAt (a + BitVec.ofNat 64 k)

theorem State.bytesFrom_dataAddr (s : State) : s.bytesFrom s.dataAddr = s.input := rfl

theorem InnerStep.bytesFrom_eq {s t : State} (h : InnerStep s t) (a : Quad) : t.bytesFrom a = s.bytesFrom a :=
  funext fun _ => h.outside.byteAt _

theorem State.bytesFrom_add (s : State) (a : Quad) (c : Nat) :
    s.bytesFrom (a + BitVec.ofNat 64 c) = fun k => s.bytesFrom a (c + k) := by
  funext k
  simp only [State.bytesFrom, BitVec.ofNat_add, BitVec.add_assoc]

/-- A slice of the bytes from `a` on is a window. -/
theorem slice_bytesFrom (s : State) (a : Quad) (o : Nat) :
    slice (s.bytesFrom a) o = s.window (a + BitVec.ofNat 64 o) := by
  simp only [slice, State.bytesFrom, State.window, BitVec.ofNat_add, BitVec.add_assoc]

theorem slice_shift (data : Nat → Byte) (c o : Nat) : slice (fun k => data (c + k)) o = slice data (c + o) := by
  simp only [slice, Nat.add_assoc]

theorem hashChunk_shift (data : Nat → Byte) (c : Nat) (i : LaneNo) (o : Nat) (l : Lanes) :
    hashChunk (fun k => data (c + k)) i o l = hashChunk data i (c + o) l := by
  simp only [hashChunk, slice_shift, Nat.add_assoc]

theorem hashChunks_shift (data : Nat → Byte) (c q o n : Nat) (l : Lanes) :
    hashChunks (fun k => data (c + k)) q o n l = hashChunks data q (c + o) n l := by
  induction n with
  | zero => rfl
  | succ n ih => rw [hashChunks, hashChunks, ih, hashChunk_shift, Nat.add_assoc]

/-! ### The Seeder (R141) -/

theorem exists_execAll_seeds {s : State} {as : List LaneNo}
    (h : ∀ a ∈ as, s.windowReadable (seedReadAddr s a) = true) : ∃ t, execAll (as.map .seed) s = .next t := by
  induction as generalizing s with
  | nil => exact ⟨s, rfl⟩
  | cons a as ih =>
    have hrest : ∀ b ∈ as, (s.seeded a).windowReadable (seedReadAddr (s.seeded a) b) = true :=
      fun b hb => h b (List.mem_cons_of_mem a hb)
    obtain ⟨t, ht⟩ := ih hrest
    exact ⟨t, (execAll_cons (exec_seed_readable (h a List.mem_cons_self)) _).trans ht⟩

/-- The lanes that are seeded hold their 16 bytes, the others are as before, and the reads are in order. -/
theorem execAll_seeds_next {as : List LaneNo} {s t : State} (h : execAll (as.map .seed) s = .next t) :
    (∀ j, t.lane j = if j ∈ as then s.window (seedReadAddr s j) else s.lane j) ∧
    t.reads = s.reads ++ as.map (seedReadAddr s) ∧ SameInjection s t := by
  induction as generalizing s with
  | nil =>
    obtain rfl := Host.Outcome.next.inj h
    exact ⟨fun j => by simp, by simp, rfl, rfl, rfl, rfl⟩
  | cons a as ih =>
    obtain ⟨u, ha, hu⟩ := execAll_cons_next h
    obtain ⟨-, rfl⟩ := exec_seed_next ha
    obtain ⟨hlane, hreads, hinj⟩ := ih hu
    have haddr (j : LaneNo) : seedReadAddr (s.seeded a) j = seedReadAddr s j := rfl
    have hwin (q : Quad) : (s.seeded a).window q = s.window q := rfl
    refine ⟨fun j => ?_, ?_, hinj.iw, hinj.ix, hinj.iy, hinj.iz⟩
    · rw [hlane, haddr, hwin]
      by_cases hj : j ∈ as
      · simp [hj]
      · rw [if_neg hj]
        by_cases hja : j = a
        · subst hja
          rw [s.seeded_lane_self, if_pos List.mem_cons_self]
        · rw [s.seeded_sameLanesOutside a j (by simpa using hja), if_neg (by simp [hj, hja])]
    · rw [hreads, s.seeded_reads]
      simp [haddr]

/-- All eight lane numbers. -/
def allLanes : List LaneNo := [0, 1, 2, 3, 4, 5, 6, 7]

theorem mem_allLanes (j : LaneNo) : j ∈ allLanes := by
  revert j
  decide

theorem map_seedReadAddr_allLanes (s : State) :
    allLanes.map (seedReadAddr s) = (List.range 8).map fun i => s.seedAddr + BitVec.ofNat 64 (16 * i) := rfl

theorem goesOn_seeds : ∀ i ∈ allLanes.map Instr.seed, goesOn i = true := by decide

theorem fin_notMem_seeds : Instr.fin ∉ allLanes.map Instr.seed := by decide

/-- Settles O52: with every lane seeded none holds an old value. -/
theorem seederLoadsTheSeed : Obligations.SeederLoadsTheSeed := by
  intro s hread
  obtain ⟨t, ht⟩ := exists_execAll_seeds (s := s) (as := allLanes) fun a _ => hread a.toNat a.isLt
  obtain ⟨hlane, hreads, hinj⟩ := execAll_seeds_next ht
  obtain ⟨hpc, hcnt⟩ := execAll_next_goesOn goesOn_seeds ht
  rw [map_seedReadAddr_allLanes] at hreads
  refine ⟨t, ht, fun i j hj => ?_, hreads, hpc, hinj, hcnt, execAll_next_innerStep fin_notMem_seeds ht⟩
  rw [hlane, if_pos (mem_allLanes i), byteOf_window _ _ hj, seedReadAddr, BitVec.add_assoc, ← BitVec.ofNat_add]

/-! ### The Block Mixer (R155) -/

/-- A MIX with the lanes of a quintuple is the mixing step of the hash. -/
theorem mixLanes_eq_hashMix (i : LaneNo) (s : State) :
    (mixLanes i (i + 4) (i + 6) (i + 1) (i + 2) s).lanes = hashMix i s.iw s.ix s.iy s.iz s.lanes := rfl

theorem exec_mixQ_next {i : LaneNo} {s t : State} (h : exec (mixQ i) s = .next t) :
    t.lanes = hashMix i s.iw s.ix s.iy s.iz s.lanes ∧ t.reads = s.reads ∧ SameInjection s t := by
  obtain rfl := Host.Outcome.next.inj ((exec_mix i (i + 4) (i + 6) (i + 1) (i + 2) s).symm.trans h)
  exact ⟨mixLanes_eq_hashMix i s, rfl, rfl, rfl, rfl, rfl⟩

/-- What loading chunks at `PTR` and mixing them leaves of the pointer, the counters, `pc` and the reads. -/
structure ChunksRead (n : Nat) (s t : State) : Prop where
  ptr : t.ptr = s.ptr + BitVec.ofNat 64 (32 * n)
  pc : t.pc = s.pc + BitVec.ofNat 7 (2 * n)
  blkcnt : t.blkcnt = s.blkcnt
  chcnt : t.chcnt = s.chcnt
  reads : t.reads = s.reads ++ chunksReads s.ptr 0 n

theorem chunksReads_zero (a : Quad) (first : Nat) : chunksReads a first 0 = [] := rfl

theorem chunksReads_succ (a : Quad) (first n : Nat) :
    chunksReads a first (n + 1) =
      chunksReads a first n ++ chunkReads (a + BitVec.ofNat 64 (32 * (first + n))) := by
  simp [chunksReads, List.range_succ]

/-- One chunk loaded and mixed. -/
theorem execAll_mixmQ_next {i : LaneNo} {s t : State} (h : execAll (mixmQ i) s = .next t) :
    t.lanes = hashChunk (s.bytesFrom s.ptr) i 0 s.lanes ∧ ChunksRead 1 s t := by
  obtain ⟨u, hldc, h⟩ := execAll_cons_next h
  obtain ⟨v, hmix, h⟩ := execAll_cons_next h
  obtain rfl := Host.Outcome.next.inj h
  obtain ⟨-, rfl⟩ := exec_ldc_next hldc
  obtain ⟨hpc, hcnt⟩ := exec_next_goesOn rfl hmix
  obtain ⟨hlanes, hreads, -⟩ := exec_mixQ_next hmix
  refine ⟨?_, ⟨?_, ?_, ?_, ?_, ?_⟩⟩
  · rw [hlanes, s.chunkLoaded_iw, s.chunkLoaded_ix, s.chunkLoaded_iy, s.chunkLoaded_iz, s.chunkLoaded_lanes,
      hashChunk, slice_bytesFrom, slice_bytesFrom, slice_bytesFrom, slice_bytesFrom, BitVec.add_zero]
  · rw [hcnt.ptr, s.chunkLoaded_ptr]
  · rw [hpc, s.chunkLoaded_pc, BitVec.add_assoc]
    rfl
  · rw [hcnt.blkcnt, s.chunkLoaded_blkcnt]
  · rw [hcnt.chcnt, s.chunkLoaded_chcnt]
  · rw [hreads, s.chunkLoaded_reads, chunksReads_succ, chunksReads_zero, BitVec.add_zero]
    rfl

/-- `n` chunks, the first with the quintuple `Q[q]`. -/
def chunkRow (q n : Nat) : List Instr := (List.range n).flatMap fun j => mixmQ (BitVec.ofNat 3 (q + j))

theorem chunkRow_succ (q n : Nat) : chunkRow q (n + 1) = chunkRow q n ++ mixmQ (BitVec.ofNat 3 (q + n)) := by
  simp [chunkRow, List.range_succ]

theorem fin_notMem_mixmQ (i : LaneNo) : Instr.fin ∉ mixmQ i := by simp [mixmQ, mixQ]

theorem fin_notMem_chunkRow (q n : Nat) : Instr.fin ∉ chunkRow q n := by
  simp [chunkRow, fin_notMem_mixmQ]

theorem execAll_chunkRow_next {q n : Nat} {s t : State} (h : execAll (chunkRow q n) s = .next t) :
    t.lanes = hashChunks (s.bytesFrom s.ptr) q 0 n s.lanes ∧ ChunksRead n s t := by
  induction n generalizing t with
  | zero =>
    obtain rfl := Host.Outcome.next.inj h
    exact ⟨rfl, by simp, by simp, rfl, rfl, by simp [chunksReads_zero]⟩
  | succ n ih =>
    rw [chunkRow_succ] at h
    obtain ⟨u, hrow, hlast⟩ := execAll_append_next h
    obtain ⟨hlanes, hread⟩ := ih hrow
    obtain ⟨hlanes', hread'⟩ := execAll_mixmQ_next hlast
    have hinner := execAll_next_innerStep (fin_notMem_chunkRow q n) hrow
    refine ⟨?_, ⟨?_, ?_, ?_, ?_, ?_⟩⟩
    · rw [hlanes', hinner.bytesFrom_eq, hread.ptr, s.bytesFrom_add, hashChunk_shift, hlanes, hashChunks,
        Nat.zero_add, Nat.add_zero]
    · rw [hread'.ptr, hread.ptr, BitVec.add_assoc, ← BitVec.ofNat_add]
      rfl
    · rw [hread'.pc, hread.pc, BitVec.add_assoc, ← BitVec.ofNat_add]
      rfl
    · rw [hread'.blkcnt, hread.blkcnt]
    · rw [hread'.chcnt, hread.chcnt]
    · rw [hread'.reads, hread.reads, hread.ptr, chunksReads_succ, chunksReads_succ, chunksReads_zero]
      simp

/-- The loop body is a row of eight chunks. -/
theorem loopBody_eq_chunkRow : [0, 1, 2, 3, 4, 5, 6, 7].flatMap mixmQ = chunkRow 0 8 := rfl

/-- Settles O53: a row of eight chunks from the quintuple `Q[0]` on. -/
theorem loopBodyMixesOneBlock : Obligations.LoopBodyMixesOneBlock := by
  intro s t h
  rw [loopBody_eq_chunkRow] at h
  obtain ⟨hlanes, hread⟩ := execAll_chunkRow_next h
  exact ⟨hlanes, hread.ptr, hread.pc, hread.blkcnt, hread.chcnt, hread.reads,
    execAll_next_innerStep (fin_notMem_chunkRow 0 8) h⟩

/-! ### The fixed tail (R175) -/

theorem exec_ldp_lanes_reads {s t : State} (h : exec .ldp s = .next t) :
    t.lanes = s.lanes ∧
    t.reads = s.reads ++ if tailLenOf s.dataLen = 0 then [] else [partialAddr s.dataAddr s.dataLen] := by
  rcases exec_ldp_next h with ⟨hwhole, rfl⟩ | ⟨hpart, -, rfl⟩
  · rw [if_pos hwhole, List.append_nil]
    exact ⟨rfl, rfl⟩
  · rw [if_neg hpart]
    exact ⟨rfl, s.partialLoaded_reads⟩

theorem exec_ldf_lanes_reads {s t : State} (h : exec .ldf s = .next t) :
    t.lanes = s.lanes ∧
    t.reads = s.reads ++ if full16Of s.dataLen then [lastAddr s.dataAddr s.dataLen - 16#64] else [] := by
  rcases exec_ldf_next h with ⟨hshort, rfl⟩ | ⟨hfull, -, rfl⟩
  · rw [hshort]
    exact ⟨rfl, (List.append_nil _).symm⟩
  · rw [hfull]
    exact ⟨rfl, s.residualLoaded_reads⟩

/-- An injection built by `align`, mixed in. -/
theorem execAll_mixrQ_next {i : LaneNo} {s t : State} (h : execAll (mixrQ i) s = .next t) :
    t.lanes = hashMix i (align s.iz s.ix 15) s.ix (align s.iz s.ix 1) s.iz s.lanes ∧ t.reads = s.reads := by
  obtain ⟨u, hinj, h⟩ := execAll_cons_next h
  obtain ⟨v, hmix, h⟩ := execAll_cons_next h
  obtain rfl := Host.Outcome.next.inj h
  obtain rfl := Host.Outcome.next.inj ((exec_inj s).symm.trans hinj)
  obtain ⟨hlanes, hreads, -⟩ := exec_mixQ_next hmix
  exact ⟨hlanes, hreads⟩

/-- The two values INJ builds from the length: the length has 8 bytes, so that byte 15 is 0. -/
theorem align_length (len : Quad) :
    align (len.setWidth 128) 0#128 15 = 0#128 ∧
    align (len.setWidth 128) 0#128 1 = BitVec.ofNat 128 (len.toNat / 256) := by
  have hlen := len.isLt
  have hconcat : (0#128 ++ len.setWidth 128 : BitVec (128 + 128)).toNat = len.toNat := by
    rw [BitVec.toNat_append, BitVec.toNat_setWidth_of_le (by decide)]
    simp
  have hshift (k : Nat) : (align (len.setWidth 128) 0#128 k).toNat = len.toNat / 2 ^ (8 * k) % 2 ^ 128 := by
    rw [align_eq_shift, BitVec.toNat_setWidth, BitVec.toNat_ushiftRight, hconcat, Nat.shiftRight_eq_div_pow]
  constructor
  · refine BitVec.eq_of_toNat_eq ((hshift 15).trans ?_)
    rw [BitVec.toNat_ofNat]
    omega
  · exact BitVec.eq_of_toNat_eq ((hshift 1).trans (BitVec.toNat_ofNat _ _).symm)

/-- The fixed tail: the residual call, then the length call. -/
def fixedTail : List Instr := [.ldp, .ldf] ++ mixrQ 0 ++ [.lenv] ++ mixrQ 1

theorem goesOn_fixedTail : ∀ i ∈ fixedTail, goesOn i = true := by decide

theorem fin_notMem_fixedTail : Instr.fin ∉ fixedTail := by decide

theorem execAll_fixedTail_next {s t : State} (hfit : s.dataAddr.toNat + s.dataLen.toNat ≤ 2 ^ 64)
    (h : execAll fixedTail s = .next t) :
    t.lanes = hashLength s.dataLen.toNat (hashResidual s.input s.dataLen.toNat s.lanes) ∧
    t.reads = s.reads ++ (if tailLenOf s.dataLen = 0 then [] else [partialAddr s.dataAddr s.dataLen]) ++
      (if full16Of s.dataLen then [lastAddr s.dataAddr s.dataLen - 16#64] else []) := by
  rw [fixedTail] at h
  obtain ⟨w, h, hmixLength⟩ := execAll_append_next h
  obtain ⟨v, h, hlenv⟩ := execAll_append_next h
  obtain ⟨u, hload, hmixResidual⟩ := execAll_append_next h
  obtain ⟨w', hlenv, hw⟩ := execAll_cons_next hlenv
  obtain rfl := Host.Outcome.next.inj hw
  obtain rfl := Host.Outcome.next.inj ((exec_lenv v).symm.trans hlenv)
  obtain ⟨hix, hiz⟩ := execAll_ldp_ldf hfit hload
  obtain ⟨p, hldp, hrest⟩ := execAll_cons_next hload
  obtain ⟨p', hldf, hp'⟩ := execAll_cons_next hrest
  obtain rfl := Host.Outcome.next.inj hp'
  obtain ⟨hlanesP, hreadsP⟩ := exec_ldp_lanes_reads hldp
  obtain ⟨hlanesF, hreadsF⟩ := exec_ldf_lanes_reads hldf
  obtain ⟨hlanesR, hreadsR⟩ := execAll_mixrQ_next hmixResidual
  obtain ⟨hlanesL, hreadsL⟩ := execAll_mixrQ_next hmixLength
  have hinnerP : InnerStep s p := exec_next_innerStep (by decide) hldp
  have hinnerV : InnerStep s v := (execAll_next_innerStep (by decide) hload).trans
    (execAll_next_innerStep (by decide) hmixResidual)
  constructor
  · have hloadedIx : v.lengthLoaded.ix = 0#128 := v.lengthLoaded_ix
    have hloadedIz : v.lengthLoaded.iz = s.dataLen.setWidth 128 := by
      rw [← hinnerV.hostRegs.dataLen]
      rfl
    have hloadedLanes : v.lengthLoaded.lanes = v.lanes := rfl
    obtain ⟨hw0, hy0⟩ := align_length s.dataLen
    rw [hlanesL, hloadedIx, hloadedIz, hw0, hy0, hloadedLanes, hlanesR, hix, hiz, hlanesF, hlanesP,
      hashLength, BitVec.ofNat_toNat]
    rfl
  · have hloadedReads : v.lengthLoaded.reads = v.reads := rfl
    rw [hreadsL, hloadedReads, hreadsR, hreadsF, hreadsP, hinnerP.hostRegs.dataLen, hinnerP.hostRegs.dataAddr]

/-- Settles O54: the seven words are the fixed tail, and each of them goes on to the next. -/
theorem fixedTailMixesResidualAndLength : Obligations.FixedTailMixesResidualAndLength := by
  intro s t hfit h
  obtain ⟨hlanes, -⟩ := execAll_fixedTail_next hfit h
  obtain ⟨-, hcnt⟩ := execAll_next_goesOn goesOn_fixedTail h
  exact ⟨hlanes, hcnt, execAll_next_innerStep fin_notMem_fixedTail h⟩

/-! ### The Reducer (R204, R205) -/

/-- A SHUF with the lanes of a window is the shuffle of the hash. -/
theorem shufLanes_eq_hashShuffle (i : LaneNo) (s : State) :
    (shufLanes i (i + 1) (i + 2) (i + 4) (i + 5) (i + 6) s).lanes = hashShuffle i s.lanes := rfl

/-- The first `n` shuffles of the rotation. -/
def shuffles (n : Nat) : List Instr := (List.range n).map fun j => shufS (BitVec.ofNat 3 j)

theorem exists_execAll_shuffles (n : Nat) (s : State) :
    ∃ t, execAll (shuffles n) s = .next t ∧ t.lanes = hashShuffles n s.lanes ∧ t.reads = s.reads := by
  induction n with
  | zero => exact ⟨s, rfl, rfl, rfl⟩
  | succ n ih =>
    obtain ⟨u, hu, hlanes, hreads⟩ := ih
    have hsplit : shuffles (n + 1) = shuffles n ++ [shufS (BitVec.ofNat 3 n)] := by
      simp [shuffles, List.range_succ]
    have hshuf : exec (shufS (BitVec.ofNat 3 n)) u = .next _ := exec_shuf _ _ _ _ _ _ u
    refine ⟨_, by rw [hsplit, execAll_append hu, execAll_cons hshuf]; rfl, ?_, ?_⟩
    · rw [State.advance_lanes, shufLanes_eq_hashShuffle, hlanes]
      rfl
    · exact hreads

theorem shuffles_12 : [0, 1, 2, 3, 4, 5, 6, 7, 0, 1, 2, 3].map shufS = shuffles 12 := rfl

/-- The fold, seven assignments with the values of the lanes they name. -/
theorem exists_execAll_fold (s : State) :
    ∃ t, execAll fold s = .next t ∧ t.lane 0 = hashFold s.lanes ∧ t.reads = s.reads := by
  rw [fold, execAll_cons (exec_addq ..), execAll_cons (exec_addq ..), execAll_cons (exec_addq ..),
    execAll_cons (exec_addq ..), execAll_cons (exec_xorv ..), execAll_cons (exec_xorv ..),
    execAll_cons (exec_addq ..)]
  refine ⟨_, rfl, ?_, rfl⟩
  have hlane (j : LaneNo) : laneAt s.lanes j = s.lane j := rfl
  simp [State.laneAssigned, State.setLane_lane, hashFold, hlane, xor128]

/-- Settles O55: the twelve SHUF are the first twelve of the rotation, and the fold is seven assignments. -/
theorem reducerFoldsTheLanes : Obligations.ReducerFoldsTheLanes := by
  intro s
  rw [shuffles_12]
  exact ⟨exists_execAll_shuffles 12 s, exists_execAll_fold s⟩

end Sys2Proof.Machine
end

section
/-!
PROOFS. What the hash function depends on (45_sequencer_and_host.md R223). The idea: each part of the hash reads
the input in slices inside a range of offsets, and the ranges of all parts lie below the length.
-/

namespace Sys2Proof.Machine

theorem slice_congr {data data' : Nat → Byte} {o : Nat} (h : ∀ k, k < o + 16 → data' k = data k) :
    slice data' o = slice data o :=
  ofBytes_congr fun j hj => h (o + j) (by omega)

theorem hashSeeder_congr {seed seed' : Nat → Byte} (h : ∀ k, k < 128 → seed' k = seed k) :
    hashSeeder seed' = hashSeeder seed := by
  have hslice (i : Fin 8) : slice seed' (16 * i.val) = slice seed (16 * i.val) :=
    slice_congr fun k hk => h k (by omega)
  simp only [hashSeeder, hslice]

section Input
variable {data data' : Nat → Byte}

theorem hashChunk_congr {o : Nat} (h : ∀ k, k < o + 32 → data' k = data k) (i : LaneNo) (l : Lanes) :
    hashChunk data' i o l = hashChunk data i o l := by
  rw [hashChunk, hashChunk, slice_congr fun k hk => h k (by omega), slice_congr fun k hk => h k (by omega),
    slice_congr fun k hk => h k (by omega), slice_congr fun k hk => h k (by omega)]

theorem hashChunks_congr {o n : Nat} (h : ∀ k, k < o + 32 * n → data' k = data k) (q : Nat) (l : Lanes) :
    hashChunks data' q o n l = hashChunks data q o n l := by
  induction n with
  | zero => rfl
  | succ n ih =>
    rw [hashChunks, hashChunks, ih fun k hk => h k (by omega), hashChunk_congr fun k hk => h k (by omega)]

theorem hashBlocks_congr {n : Nat} (h : ∀ k, k < 256 * n → data' k = data k) (l : Lanes) :
    hashBlocks data' n l = hashBlocks data n l := by
  induction n with
  | zero => rfl
  | succ n ih =>
    rw [hashBlocks, hashBlocks, ih fun k hk => h k (by omega), hashChunks_congr fun k hk => h k (by omega)]

/-- The residual is cut off at the length. -/
theorem residual_congr {len : Nat} (h : ∀ k, k < len → data' k = data k) : residual data' len = residual data len := by
  funext j
  unfold residual
  split_ifs with hj
  · exact h _ (by have := Nat.mod_le len 32; omega)
  · rfl

theorem hashResidual_congr {len : Nat} (h : ∀ k, k < len → data' k = data k) (l : Lanes) :
    hashResidual data' len l = hashResidual data len l := by
  rw [hashResidual, residual_congr h]
  rfl

end Input

/-- Settles O60, part by part. -/
theorem hashDependsOnlyOnSeedAndInput : Obligations.HashDependsOnlyOnSeedAndInput := by
  intro seed seed' data data' len hseed hdata
  have hlanes : hashLanes seed' data' len = hashLanes seed data len := by
    rw [hashLanes, hashSeeder_congr hseed, hashBlocks_congr fun k hk => hdata k (by omega),
      hashResidual_congr hdata, hashChunks_congr fun k hk => hdata k (by omega)]
    rfl
  rw [hash, hlanes]
  rfl

end Sys2Proof.Machine
end

section
/-!
PROOFS. A whole run takes the stated number of steps (45_sequencer_and_host.md R225). The idea: what the statements
about every step of a run assume is kept by the step, so a run with nothing scripted goes on until no step is left.
-/

namespace Sys2Proof.Machine

/-! ### Several steps -/

theorem runFor_zero (s : State) : runFor 0 s = .next s := rfl

theorem runFor_succ {s u : State} (h : step s = .next u) (k : Nat) : runFor (k + 1) s = runFor k u := by
  have hcore : Sys2Proof.core.step s = .next u := h
  simp only [runFor, Host.Core.run, hcore]
  rfl

theorem runFor_succ_next {k : Nat} {s t : State} (h : runFor (k + 1) s = .next t) :
    ∃ u, step s = .next u ∧ runFor k u = .next t := by
  have hcore : Sys2Proof.core.step s = step s := rfl
  cases hs : step s with
  | next u => exact ⟨u, rfl, (runFor_succ hs k).symm.trans h⟩
  | fault r => simp only [runFor, Host.Core.run, hcore, hs] at h; cases h
  | refused r => simp only [runFor, Host.Core.run, hcore, hs] at h; cases h

theorem runFor_one {s t : State} (h : runFor 1 s = .next t) : step s = .next t := by
  obtain ⟨u, hs, hu⟩ := runFor_succ_next h
  rwa [← Host.Outcome.next.inj hu]

theorem runFor_add {m : Nat} {s u : State} (h : runFor m s = .next u) (n : Nat) :
    runFor (m + n) s = runFor n u := by
  induction m generalizing s with
  | zero => rw [Nat.zero_add, Host.Outcome.next.inj h]
  | succ m ih =>
    obtain ⟨v, hs, hv⟩ := runFor_succ_next h
    rw [Nat.add_right_comm, runFor_succ hs, ih hv]

theorem runFor_add_next {m n : Nat} {s t : State} (h : runFor (m + n) s = .next t) :
    ∃ u, runFor m s = .next u ∧ runFor n u = .next t := by
  induction m generalizing s with
  | zero => exact ⟨s, rfl, by rwa [Nat.zero_add] at h⟩
  | succ m ih =>
    rw [Nat.add_right_comm] at h
    obtain ⟨v, hs, hv⟩ := runFor_succ_next h
    obtain ⟨u, hu, ht⟩ := ih hv
    exact ⟨u, (runFor_succ hs m).trans hu, ht⟩

/-! ### A run with nothing scripted -/

/-- What the statements about every step of a run assume. -/
structure State.Running (s : State) : Prop where
  inv : s.Inv
  busy : s.busy = true
  onTrack : s.OnTrack
  owned : s.ownedReadable
  script : s.script = []

/-- A step of a run: the run goes on with one step fewer to go, or it is done. -/
theorem State.Running.step {s : State} (h : s.Running) :
    ∃ t, Machine.step s = .next t ∧ t.Inv ∧
      ((t.Running ∧ t.stepsLeft + 1 = s.stepsLeft) ∨ (t.done = true ∧ t.busy = false ∧ s.stepsLeft = 1)) := by
  obtain ⟨t, ht, hown⟩ := ownedPagesReadableMeansNoFault s h.inv h.busy h.onTrack h.owned h.script
  have hinv := everyStepKeepsTheInvariants s t h.inv ht
  refine ⟨t, ht, hinv, ?_⟩
  rcases everyStepNearsTheEnd s t h.inv h.busy h.onTrack h.script ht with ⟨hbusy, hleft⟩ | hdone
  · have hturn : sequencerTurn s = .next t := (nextTurn_nil h.script).symm.trans ht
    obtain ⟨i, -, hexec⟩ := sequencerTurn_eq_exec h.inv h.busy
    obtain ⟨houtside, -⟩ := noMicroOperationWritesOutside i s t (hexec.symm.trans hturn)
    have htrack := everyStepKeepsTheRunOnTrack s t h.inv (fun _ => h.onTrack) ht hbusy
    exact .inl ⟨⟨hinv, hbusy, htrack, hown, houtside.script.trans h.script⟩, hleft⟩
  · exact .inr hdone

theorem State.Running.runFor {s : State} (h : s.Running) {k : Nat} (hk : k < s.stepsLeft) :
    ∃ u, Machine.runFor k s = .next u ∧ u.Running ∧ u.stepsLeft + k = s.stepsLeft := by
  induction k generalizing s with
  | zero => exact ⟨s, rfl, h, rfl⟩
  | succ k ih =>
    obtain ⟨t, ht, -, ⟨hrun, hleft⟩ | ⟨-, -, hone⟩⟩ := h.step
    · obtain ⟨u, hu, hrunning, hcount⟩ := ih hrun (by omega)
      exact ⟨u, (runFor_succ ht k).trans hu, hrunning, by omega⟩
    · omega

/-- A run ends when no step is left. -/
theorem State.Running.runFor_stepsLeft {s : State} (h : s.Running) :
    ∃ t, Machine.runFor s.stepsLeft s = .next t ∧ t.Inv ∧ t.busy = false ∧ t.done = true := by
  have hpos : 0 < s.stepsLeft := by
    obtain ⟨t, -, -, ⟨-, hleft⟩ | ⟨-, -, hone⟩⟩ := h.step <;> omega
  obtain ⟨u, hu, hrun, hcount⟩ := h.runFor (k := s.stepsLeft - 1) (by omega)
  obtain ⟨t, ht, hinv, ⟨hrun', hleft⟩ | ⟨hdone, hbusy, -⟩⟩ := hrun.step
  · have hleft' : 0 < t.stepsLeft := by
      obtain ⟨v, -, -, ⟨-, hv⟩ | ⟨-, -, hv⟩⟩ := hrun'.step <;> omega
    omega
  · refine ⟨t, ?_, hinv, hbusy, hdone⟩
    rw [show s.stepsLeft = (s.stepsLeft - 1) + 1 by omega, runFor_add hu, runFor_succ ht, runFor_zero]

/-! ### START -/

/-- The state after an accepted START that was the whole script. -/
def State.started (s : State) : State := (s.setScript []).clearStatus.launch

section Started
variable {s : State} {v : Quad} (h : s.CallReady) (h0 : v.getLsbD 0 = true)
  (hscript : s.script = [.host (.write .ctrl v)])

include h h0 hscript in
theorem step_started : step s = .next s.started := by
  have hidle : (s.setScript []).busy = false := h.idle
  have hfit : (s.setScript []).objectsFit = true := h.fits
  exact (nextTurn_host hscript).trans ((hostAct_write_ctrl hidle v).trans
    ((ctrlWrite_start _ h0).trans (startCommand_accept h.seedLen hfit)))

include h in
theorem State.started_running : s.started.Running where
  inv := (h.inv.setScript []).launched h.seedLen h.fits
  busy := rfl
  onTrack := State.launch_onTrack _
  owned := State.ownedReadable_of_eq h.readable rfl rfl rfl rfl
  script := rfl

/-- The steps of a run that has just started (R225). -/
theorem State.started_stepsLeft (s : State) : s.started.stepsLeft = stepsOf s.dataLen.toNat := by
  have hpc : s.started.pc.toNat = 0 := rfl
  have hblk : s.started.blkcnt.toNat = s.dataLen.toNat / 256 := blocksOf_toNat s.dataLen
  have hch : s.started.chcnt.toNat = s.dataLen.toNat / 32 % 8 := chunksOf_toNat s.dataLen
  have hbranch : s.started.tailBranch = if s.dataLen.toNat / 32 % 8 < 7 then 1 else 0 := rfl
  rw [State.stepsLeft_head (by omega), hpc, hblk, hch, hbranch, stepsOf]
  omega

end Started

/-- Settles O57: START leaves `STEPS(L)` steps to go, and the run goes on until none is left. -/
theorem runEndsAfterTheStatedSteps : Obligations.RunEndsAfterTheStatedSteps := by
  intro s v h h0 hscript
  have hstart := step_started h h0 hscript
  have hrun := State.started_running h
  rw [← s.started_stepsLeft]
  refine ⟨fun k hk => ?_, ?_⟩
  · obtain ⟨u, hu, hrunning, -⟩ := hrun.runFor hk
    have hdone : u.done = false := by
      rw [← Bool.not_eq_true]
      exact fun hd => hrunning.inv.busy_done ⟨hrunning.busy, hd⟩
    exact ⟨u, (runFor_succ hstart k).trans hu, hrunning.busy, hdone⟩
  · obtain ⟨t, ht, hinv, hbusy, hdone⟩ := hrun.runFor_stepsLeft
    have herr : t.err = false := by
      rw [← Bool.not_eq_true]
      exact fun he => hinv.done_err ⟨hdone, he⟩
    exact ⟨t, (runFor_succ hstart _).trans ht, hbusy, hdone, herr⟩

end Sys2Proof.Machine
end

section
/-!
PROOFS. What a whole run computes and reads (45_sequencer_and_host.md R223, 20_memory.md R55,
70_reset_and_hazards.md R285). The idea: between two branches a run executes a piece of the listing, so the lemmas
about the phases say what it does there; the loop and the tail are inductions on the chunks left, and the phases
put together are the hash function and the list of reads.
-/

namespace Sys2Proof.Machine

/-! ### A piece of the listing -/

/-- A busy block with the micro-program and nothing scripted. -/
structure State.Executing (s : State) : Prop where
  rom : s.rom = microProgram
  busy : s.busy = true
  script : s.script = []

theorem State.Running.executing {s : State} (h : s.Running) : s.Executing := ⟨h.inv.rom, h.busy, h.script⟩

theorem State.Executing.of_innerStep {s t : State} (h : s.Executing) (hinner : InnerStep s t) : t.Executing :=
  ⟨hinner.outside.rom.trans h.rom, hinner.flags.busy.trans h.busy, hinner.outside.script.trans h.script⟩

theorem step_eq_exec {s : State} (h : s.Executing) {k : Nat} (hpc : s.pc.toNat = k) {i : Instr}
    (hi : listing[k]? = some i) : step s = exec i s := by
  subst hpc
  exact (nextTurn_nil h.script).trans (sequencerTurn_legal h.busy (decode_fetch h.rom hi))

/-- The micro-operations that go on to the next word: `goesOn`, and LDC. -/
def advances (i : Instr) : Bool := goesOn i || i == .ldc

theorem exec_next_advances {i : Instr} (hi : advances i = true) {s t : State} (h : exec i s = .next t) :
    t.pc = s.pc + 1#7 ∧ InnerStep s t := by
  simp only [advances, Bool.or_eq_true, beq_iff_eq] at hi
  rcases hi with hgo | rfl
  · have hfin : i ≠ .fin := by rintro rfl; cases hgo
    exact ⟨(exec_next_goesOn hgo h).1, exec_next_innerStep hfin h⟩
  · have hinner := exec_next_innerStep (by decide) h
    obtain ⟨-, rfl⟩ := exec_ldc_next h
    exact ⟨s.chunkLoaded_pc, hinner⟩

/-- A run executes the piece of the listing that stands at `pc`. -/
theorem runFor_piece {l : List Instr} {k : Nat} {s t : State} (hs : s.Executing) (hpc : s.pc.toNat = k)
    (hl : l <+: listing.drop k) (hadv : ∀ i ∈ l, advances i = true) (h : runFor l.length s = .next t) :
    execAll l s = .next t ∧ InnerStep s t ∧ t.pc.toNat = k + l.length := by
  induction l generalizing k s with
  | nil =>
    obtain rfl := Host.Outcome.next.inj h
    exact ⟨rfl, innerStep_of_withoutWork_eq rfl, hpc⟩
  | cons i l ih =>
    obtain ⟨r, hr⟩ := hl
    have hi : listing[k]? = some i := by
      rw [← Nat.add_zero k, ← List.getElem?_drop, ← hr]
      rfl
    have hl' : l <+: listing.drop (k + 1) := ⟨r, by rw [← List.drop_drop, ← hr]; rfl⟩
    have hk : k < 74 := by
      rw [← listing_length]
      exact (List.getElem?_eq_some_iff.1 hi).1
    obtain ⟨u, hu, ht⟩ := runFor_succ_next h
    rw [step_eq_exec hs hpc hi] at hu
    obtain ⟨hpcu, hinner⟩ := exec_next_advances (hadv i List.mem_cons_self) hu
    have hpcu' : u.pc.toNat = k + 1 := by
      rw [hpcu, toNat_pc_add_one (by omega), hpc]
    obtain ⟨hall, hinner', hpct⟩ :=
      ih (hs.of_innerStep hinner) hpcu' hl' (fun j hj => hadv j (List.mem_cons_of_mem i hj)) ht
    exact ⟨(execAll_cons hu l).trans hall, hinner.trans hinner', by rw [hpct, List.length_cons]; omega⟩

/-! ### Rows of chunks -/

theorem chunksReads_add (a : Quad) (first m n : Nat) :
    chunksReads a first (m + n) = chunksReads a first m ++ chunksReads a (first + m) n := by
  induction n with
  | zero => rw [chunksReads_zero, List.append_nil, Nat.add_zero]
  | succ n ih => rw [← Nat.add_assoc, chunksReads_succ, chunksReads_succ, ih, List.append_assoc, Nat.add_assoc]

theorem chunksReads_shift (a : Quad) (c first n : Nat) :
    chunksReads (a + BitVec.ofNat 64 (32 * c)) first n = chunksReads a (c + first) n := by
  simp only [chunksReads, BitVec.add_assoc, ← BitVec.ofNat_add, ← Nat.mul_add, ← Nat.add_assoc]

/-! ### The Block Mixer -/

/-- One turn of the loop: the branch not taken, eight chunks, the jump back. -/
theorem runFor_block {s t : State} (hs : s.Executing) (hpc : s.pc.toNat = 0x08) (hleft : 0 < s.blkcnt.toNat)
    (h : runFor 18 s = .next t) :
    InnerStep s t ∧ t.pc.toNat = 0x08 ∧ t.blkcnt.toNat + 1 = s.blkcnt.toNat ∧ t.chcnt = s.chcnt ∧
    t.ptr = s.ptr + BitVec.ofNat 64 (32 * 8) ∧ t.reads = s.reads ++ chunksReads s.ptr 0 8 ∧
    t.lanes = hashChunks (s.bytesFrom s.ptr) 0 0 8 s.lanes := by
  obtain ⟨u, hu, h⟩ := runFor_succ_next h
  obtain ⟨w, hw, ht⟩ := runFor_add_next (m := 16) (n := 1) h
  rw [step_eq_exec hs hpc rfl] at hu
  have hz : s.blkcnt ≠ 0#56 := by
    intro h0
    rw [h0] at hleft
    exact absurd hleft (by decide)
  obtain rfl : u = s.blockCounted :=
    Host.Outcome.next.inj (hu.symm.trans (exec_blk_nonzero hz _))
  have hexec := hs.of_innerStep s.blockCounted_innerStep
  have hpcu : s.blockCounted.pc.toNat = 0x09 := by
    rw [State.blockCounted, State.advance_pc]
    exact (toNat_pc_add_one (p := s.pc) (by omega)).trans (by rw [hpc])
  obtain ⟨hrow, hinner, hpcw⟩ :=
    runFor_piece (l := chunkRow 0 8) hexec hpcu (by decide) (by decide) hw
  obtain ⟨hlanes, hread⟩ := execAll_chunkRow_next hrow
  have hjmp : exec (.jmp 0x08) w = .next t :=
    (step_eq_exec (hexec.of_innerStep hinner) hpcw rfl).symm.trans (runFor_one ht)
  obtain rfl : t = w.goto 0x08 := Host.Outcome.next.inj (hjmp.symm.trans (exec_jmp _ w))
  refine ⟨(s.blockCounted_innerStep.trans hinner).trans (w.goto_innerStep _), rfl, ?_, hread.chcnt, hread.ptr,
    hread.reads, ?_⟩
  · rw [State.goto_blkcnt, hread.blkcnt, State.blockCounted_blkcnt_toNat hz]
    omega
  · rw [State.goto_lanes, hlanes, s.blockCounted_innerStep.bytesFrom_eq]
    rfl

/-- The first `n` turns of the loop. -/
theorem runFor_blocks {n : Nat} {s t : State} (hs : s.Executing) (hpc : s.pc.toNat = 0x08) (hn : n ≤ s.blkcnt.toNat)
    (h : runFor (18 * n) s = .next t) :
    InnerStep s t ∧ t.pc.toNat = 0x08 ∧ t.blkcnt.toNat + n = s.blkcnt.toNat ∧ t.chcnt = s.chcnt ∧
    t.ptr = s.ptr + BitVec.ofNat 64 (32 * (8 * n)) ∧ t.reads = s.reads ++ chunksReads s.ptr 0 (8 * n) ∧
    t.lanes = hashBlocks (s.bytesFrom s.ptr) n s.lanes := by
  induction n generalizing t with
  | zero =>
    obtain rfl := Host.Outcome.next.inj h
    exact ⟨innerStep_of_withoutWork_eq rfl, hpc, rfl, rfl, by simp, by simp [chunksReads_zero], rfl⟩
  | succ n ih =>
    obtain ⟨u, hu, hlast⟩ := runFor_add_next (m := 18 * n) (n := 18) h
    obtain ⟨hinner, hpcu, hblk, hch, hptr, hreads, hlanes⟩ := ih (by omega) hu
    obtain ⟨hinner', hpct, hblk', hch', hptr', hreads', hlanes'⟩ :=
      runFor_block (hs.of_innerStep hinner) hpcu (by omega) hlast
    refine ⟨hinner.trans hinner', hpct, by omega, hch'.trans hch, ?_, ?_, ?_⟩
    · rw [hptr', hptr, BitVec.add_assoc, ← BitVec.ofNat_add, ← Nat.mul_add]
      rfl
    · rw [hreads', hreads, hptr, chunksReads_shift, Nat.mul_succ, chunksReads_add, Nat.zero_add, Nat.add_zero,
        List.append_assoc]
    · rw [hlanes', hinner.bytesFrom_eq, hptr, s.bytesFrom_add, hashChunks_shift, hlanes, hashBlocks,
        ← Nat.mul_assoc, Nat.add_zero]

/-! ### The chunks of the tail -/

theorem tailChunk_piece {n : Nat} (hn : n < 7) :
    listing[0x21 + 3 * n]? = some (.chk 0x36) ∧
    mixmQ (BitVec.ofNat 3 (2 + n)) <+: listing.drop (0x21 + 3 * n + 1) := by
  revert n
  decide

theorem advances_mixmQ (i : LaneNo) : ∀ j ∈ mixmQ i, advances j = true := by
  simp [mixmQ, mixQ, advances, goesOn]

/-- The first `n` chunks of the tail: the branch not taken, then one chunk. -/
theorem runFor_tailChunks {n : Nat} {s t : State} (hs : s.Executing) (hpc : s.pc.toNat = 0x21) (hn : n ≤ s.chcnt.toNat)
    (h : runFor (3 * n) s = .next t) :
    InnerStep s t ∧ t.pc.toNat = 0x21 + 3 * n ∧ t.chcnt.toNat + n = s.chcnt.toNat ∧
    t.ptr = s.ptr + BitVec.ofNat 64 (32 * n) ∧ t.reads = s.reads ++ chunksReads s.ptr 0 n ∧
    t.lanes = hashChunks (s.bytesFrom s.ptr) 2 0 n s.lanes := by
  induction n generalizing t with
  | zero =>
    obtain rfl := Host.Outcome.next.inj h
    exact ⟨innerStep_of_withoutWork_eq rfl, hpc, rfl, by simp, by simp [chunksReads_zero], rfl⟩
  | succ n ih =>
    have hlt : n < 7 := by have := s.chcnt.isLt; omega
    obtain ⟨hchk, hpiece⟩ := tailChunk_piece hlt
    obtain ⟨u, hu, hlast⟩ := runFor_add_next (m := 3 * n) (n := 3) h
    obtain ⟨hinner, hpcu, hch, hptr, hreads, hlanes⟩ := ih (by omega) hu
    have hexec := hs.of_innerStep hinner
    obtain ⟨v, hv, ht⟩ := runFor_succ_next hlast
    rw [step_eq_exec hexec hpcu hchk] at hv
    have hz : u.chcnt ≠ 0#3 := by
      intro h0
      rw [h0] at hch
      exact absurd hch (by simp; omega)
    obtain rfl : v = u.chunkCounted := Host.Outcome.next.inj (hv.symm.trans (exec_chk_nonzero hz _))
    have hinnerv := u.chunkCounted_innerStep
    have hpcv : u.chunkCounted.pc.toNat = 0x21 + 3 * n + 1 := by
      rw [State.chunkCounted, State.advance_pc]
      exact (toNat_pc_add_one (p := u.pc) (by omega)).trans (by rw [hpcu])
    obtain ⟨hmix, hinnert, hpct⟩ :=
      runFor_piece (hexec.of_innerStep hinnerv) hpcv hpiece (advances_mixmQ _) ht
    obtain ⟨hlanes', hread⟩ := execAll_mixmQ_next hmix
    have hptrv : u.chunkCounted.ptr = u.ptr := rfl
    refine ⟨(hinner.trans hinnerv).trans hinnert, hpct, ?_, ?_, ?_, ?_⟩
    · rw [hread.chcnt, State.chunkCounted_chcnt_toNat hz]
      omega
    · rw [hread.ptr, hptrv, hptr, BitVec.add_assoc, ← BitVec.ofNat_add, ← Nat.mul_add]
    · rw [hread.reads, hptrv, hptr, chunksReads_shift, chunksReads_add, Nat.zero_add, Nat.add_zero,
        ← List.append_assoc, ← hreads]
      rfl
    · have hlanesv : u.chunkCounted.lanes = u.lanes := rfl
      rw [hlanes', hinnerv.bytesFrom_eq, hinner.bytesFrom_eq, hptrv, hptr, s.bytesFrom_add, hashChunk_shift, hlanesv,
        hlanes, hashChunks, Nat.add_zero, Nat.zero_add]

/-- The end of the tail: a branch when a chunk is wanting, and nothing when all seven were there. -/
theorem runFor_tailEnd {n : Nat} {s t : State} (hs : s.Executing) (hpc : s.pc.toNat = 0x21 + 3 * n) (hn : n < 8)
    (hzero : s.chcnt.toNat = 0) (h : runFor (if n < 7 then 1 else 0) s = .next t) :
    InnerStep s t ∧ t.pc.toNat = 0x36 ∧ t.reads = s.reads ∧ t.lanes = s.lanes := by
  by_cases hlt : n < 7
  · rw [if_pos hlt] at h
    have hchk := (step_eq_exec hs hpc (tailChunk_piece hlt).1).symm.trans (runFor_one h)
    have hz : s.chcnt = 0#3 := BitVec.eq_of_toNat_eq hzero
    obtain rfl : t = s.goto 0x36 := Host.Outcome.next.inj (hchk.symm.trans (exec_chk_zero hz _))
    exact ⟨s.goto_innerStep _, rfl, rfl, rfl⟩
  · rw [if_neg hlt] at h
    obtain rfl := Host.Outcome.next.inj h
    exact ⟨innerStep_of_withoutWork_eq rfl, by omega, rfl, rfl⟩

/-! ### The phases together -/

theorem seeder_piece : allLanes.map Instr.seed <+: listing.drop 0 := by decide

theorem advances_seeds : ∀ i ∈ allLanes.map Instr.seed, advances i = true := by decide

theorem runFor_seeder {s t : State} (hs : s.Executing) (hpc : s.pc.toNat = 0) (h : runFor 8 s = .next t) :
    InnerStep s t ∧ t.pc.toNat = 0x08 ∧ SameCounters s t ∧
    t.reads = s.reads ++ (List.range 8).map (fun i => s.seedAddr + BitVec.ofNat 64 (16 * i)) ∧
    t.lanes = hashSeeder (s.bytesFrom s.seedAddr) := by
  obtain ⟨hall, hinner, hpct⟩ := runFor_piece hs hpc seeder_piece advances_seeds h
  obtain ⟨hlane, hreads, -⟩ := execAll_seeds_next hall
  rw [map_seedReadAddr_allLanes] at hreads
  obtain ⟨-, hcnt⟩ := execAll_next_goesOn goesOn_seeds hall
  refine ⟨hinner, hpct, hcnt, hreads, Vector.ext fun j hj => ?_⟩
  have hj' : (BitVec.ofNat 3 j).toNat = j := Nat.mod_eq_of_lt hj
  have hwin := hlane (BitVec.ofNat 3 j)
  rw [if_pos (mem_allLanes _), seedReadAddr, hj'] at hwin
  simp only [State.lane, hj'] at hwin
  rw [hwin, hashSeeder, Vector.getElem_ofFn, slice_bytesFrom]

theorem fixedTail_piece : fixedTail <+: listing.drop 0x1A := by decide

theorem advances_fixedTail : ∀ i ∈ fixedTail, advances i = true := by decide

theorem shuffles_piece : shuffles 12 <+: listing.drop 0x36 := by decide

theorem advances_shuffles : ∀ i ∈ shuffles 12, advances i = true := by decide

theorem fold_piece : fold <+: listing.drop 0x42 := by decide

theorem advances_fold : ∀ i ∈ fold, advances i = true := by decide

/-- The first part of a run: the Seeder, the loop and the branch out of it. -/
theorem runFor_mixer {s t : State} (hs : s.Executing) (hpc : s.pc.toNat = 0)
    (hblk : s.blkcnt.toNat = s.dataLen.toNat / 256)
    (h : runFor (8 + (18 * (s.dataLen.toNat / 256) + 1)) s = .next t) :
    InnerStep s t ∧ t.pc.toNat = 0x1A ∧ t.chcnt = s.chcnt ∧
    t.ptr = s.ptr + BitVec.ofNat 64 (32 * (8 * (s.dataLen.toNat / 256))) ∧
    t.reads = s.reads ++ (List.range 8).map (fun i => s.seedAddr + BitVec.ofNat 64 (16 * i)) ++
      chunksReads s.ptr 0 (8 * (s.dataLen.toNat / 256)) ∧
    t.lanes = hashBlocks (s.bytesFrom s.ptr) (s.dataLen.toNat / 256) (hashSeeder (s.bytesFrom s.seedAddr)) := by
  obtain ⟨u, hseed, h⟩ := runFor_add_next h
  obtain ⟨w, hloop, hbranch⟩ := runFor_add_next h
  obtain ⟨hinu, hpcu, hcntu, hreadsu, hlanesu⟩ := runFor_seeder hs hpc hseed
  obtain ⟨hinw, hpcw, hblkw, hchw, hptrw, hreadsw, hlanesw⟩ :=
    runFor_blocks (hs.of_innerStep hinu) hpcu (by rw [hcntu.blkcnt, hblk]) hloop
  have hinner := hinu.trans hinw
  have hzero : w.blkcnt = 0#56 := by
    refine BitVec.eq_of_toNat_eq ?_
    rw [hcntu.blkcnt, hblk] at hblkw
    simpa using hblkw
  have hleave := (step_eq_exec (hs.of_innerStep hinner) hpcw rfl).symm.trans (runFor_one hbranch)
  obtain rfl : t = w.goto 0x1A := Host.Outcome.next.inj (hleave.symm.trans (exec_blk_zero hzero _))
  refine ⟨hinner.trans (w.goto_innerStep _), rfl, hchw.trans hcntu.chcnt, ?_, ?_, ?_⟩
  · rw [State.goto_ptr, hptrw, hcntu.ptr]
  · rw [State.goto_reads, hreadsw, hreadsu, hcntu.ptr]
  · rw [State.goto_lanes, hlanesw, hinu.bytesFrom_eq, hcntu.ptr, hlanesu]

/-- The second part of a run: the fixed tail, the chunks of the tail and their end. -/
theorem runFor_tail {s t : State} (hs : s.Executing) (hpc : s.pc.toNat = 0x1A)
    (hch : s.chcnt.toNat = s.dataLen.toNat / 32 % 8) (hfit : s.dataAddr.toNat + s.dataLen.toNat ≤ 2 ^ 64)
    (h : runFor (7 + (3 * (s.dataLen.toNat / 32 % 8) + if s.dataLen.toNat / 32 % 8 < 7 then 1 else 0)) s = .next t) :
    InnerStep s t ∧ t.pc.toNat = 0x36 ∧
    t.reads = s.reads ++ (if tailLenOf s.dataLen = 0 then [] else [partialAddr s.dataAddr s.dataLen]) ++
      (if full16Of s.dataLen then [lastAddr s.dataAddr s.dataLen - 16#64] else []) ++
      chunksReads s.ptr 0 (s.dataLen.toNat / 32 % 8) ∧
    t.lanes = hashChunks (s.bytesFrom s.ptr) 2 0 (s.dataLen.toNat / 32 % 8)
      (hashLength s.dataLen.toNat (hashResidual s.input s.dataLen.toNat s.lanes)) := by
  obtain ⟨u, hfixed, h⟩ := runFor_add_next h
  obtain ⟨w, hchunks, hend⟩ := runFor_add_next h
  obtain ⟨hall, hinu, hpcu⟩ := runFor_piece (l := fixedTail) hs hpc fixedTail_piece advances_fixedTail hfixed
  obtain ⟨-, hcntu⟩ := execAll_next_goesOn goesOn_fixedTail hall
  obtain ⟨hlanesu, hreadsu⟩ := execAll_fixedTail_next hfit hall
  obtain ⟨hinw, hpcw, hchw, -, hreadsw, hlanesw⟩ :=
    runFor_tailChunks (hs.of_innerStep hinu) hpcu (by rw [hcntu.chcnt, hch]) hchunks
  have hinner := hinu.trans hinw
  have hzero : w.chcnt.toNat = 0 := by
    rw [hcntu.chcnt, hch] at hchw
    omega
  obtain ⟨hint, hpct, hreadst, hlanest⟩ :=
    runFor_tailEnd (hs.of_innerStep hinner) hpcw (Nat.mod_lt _ (by decide)) hzero hend
  refine ⟨hinner.trans hint, hpct, ?_, ?_⟩
  · rw [hreadst, hreadsw, hreadsu, hcntu.ptr]
  · rw [hlanest, hlanesw, hinu.bytesFrom_eq, hcntu.ptr, hlanesu]

/-- A run from its first word to the Reducer: the lanes of the hash, the reads of the list. -/
theorem runFor_lanes {s t : State} (hs : s.Executing) (hpc : s.pc.toNat = 0) (hptr : s.ptr = s.dataAddr)
    (hblk : s.blkcnt.toNat = s.dataLen.toNat / 256) (hch : s.chcnt.toNat = s.dataLen.toNat / 32 % 8)
    (hfit : s.dataAddr.toNat + s.dataLen.toNat ≤ 2 ^ 64)
    (h : runFor (8 + (18 * (s.dataLen.toNat / 256) + 1) + (7 + (3 * (s.dataLen.toNat / 32 % 8) +
      if s.dataLen.toNat / 32 % 8 < 7 then 1 else 0))) s = .next t) :
    InnerStep s t ∧ t.pc.toNat = 0x36 ∧
    t.reads = s.reads ++ runReads s.seedAddr s.dataAddr s.dataLen ∧
    t.lanes = hashLanes (s.bytesFrom s.seedAddr) s.input s.dataLen.toNat := by
  obtain ⟨u, hmixer, htail⟩ := runFor_add_next h
  obtain ⟨hinu, hpcu, hchu, hptru, hreadsu, hlanesu⟩ := runFor_mixer hs hpc hblk hmixer
  have haddr := hinu.hostRegs.dataAddr
  have hlen := hinu.hostRegs.dataLen
  rw [← hlen] at htail
  obtain ⟨hint, hpct, hreadst, hlanest⟩ :=
    runFor_tail (hs.of_innerStep hinu) hpcu (by rw [hchu, hch, hlen]) (by rw [haddr, hlen]; exact hfit) htail
  refine ⟨hinu.trans hint, hpct, ?_, ?_⟩
  · rw [hreadst, hreadsu, hptru, hptr, chunksReads_shift, haddr, hlen, runReads]
    simp only [List.append_assoc, Nat.add_zero]
  · rw [hlanest, hinu.bytesFrom_eq, hptru, hptr, s.bytesFrom_add, hashChunks_shift, hinu.input_eq, hlen, hlanesu, hptr,
      hashLanes, State.bytesFrom_dataAddr, ← Nat.mul_assoc, Nat.add_zero]

/-- The Reducer and FIN: the digest is the fold of the shuffled lanes. -/
theorem runFor_reducer {s t : State} (hs : s.Executing) (hpc : s.pc.toNat = 0x36) (h : runFor (12 + (7 + 1)) s = .next t) :
    t.digest = hashFold (hashShuffles 12 s.lanes) ∧ t.reads = s.reads := by
  obtain ⟨u, hu, h⟩ := runFor_add_next h
  obtain ⟨w, hw, ht⟩ := runFor_add_next h
  obtain ⟨hshuf, hinu, hpcu⟩ := runFor_piece hs hpc shuffles_piece advances_shuffles hu
  have hexecu := hs.of_innerStep hinu
  obtain ⟨hfold, hinw, hpcw⟩ := runFor_piece hexecu hpcu fold_piece advances_fold hw
  have hfin := (step_eq_exec (hexecu.of_innerStep hinw) hpcw rfl).symm.trans (runFor_one ht)
  obtain rfl := exec_fin_next hfin
  obtain ⟨u', hu', hlanesu, hreadsu⟩ := exists_execAll_shuffles 12 s
  obtain rfl := Host.Outcome.next.inj (hu'.symm.trans hshuf)
  obtain ⟨w', hw', hlane, hreadsw⟩ := exists_execAll_fold u'
  obtain rfl := Host.Outcome.next.inj (hw'.symm.trans hfold)
  refine ⟨?_, ?_⟩
  · rw [w'.finished_digest, hlane, hlanesu]
  · exact hreadsw.trans hreadsu

/-! ### The whole run -/

/-- The count of R225, phase by phase: Seeder, loop and its branch, fixed tail, chunks, shuffles, fold, FIN. -/
theorem stepsOf_phases (len : Nat) :
    stepsOf len = (8 + (18 * (len / 256) + 1) + (7 + (3 * (len / 32 % 8) +
      if len / 32 % 8 < 7 then 1 else 0))) + (12 + (7 + 1)) := by
  rw [stepsOf]
  omega

/-- The digest of a run and its reads. -/
theorem runFor_result {s : State} {v : Quad} (h : s.CallReady) (h0 : v.getLsbD 0 = true)
    (hscript : s.script = [.host (.write .ctrl v)]) :
    ∃ t, runFor (stepsOf s.dataLen.toNat + 1) s = .next t ∧ t.done = true ∧
      t.digest = hash (s.bytesFrom s.seedAddr) s.input s.dataLen.toNat ∧
      t.reads = s.reads ++ runReads s.seedAddr s.dataAddr s.dataLen := by
  have hrun := State.started_running h
  obtain ⟨t, ht, -, -, hdone⟩ := hrun.runFor_stepsLeft
  rw [s.started_stepsLeft] at ht
  have hfull := (runFor_succ (step_started h h0 hscript) _).trans ht
  rw [stepsOf_phases] at ht
  obtain ⟨u, hu, hreduce⟩ := runFor_add_next ht
  obtain ⟨-, hfit⟩ := s.objectsFit_iff.1 h.fits
  obtain ⟨hinner, hpc, hreads, hlanes⟩ :=
    runFor_lanes (s := s.started) hrun.executing rfl rfl (blocksOf_toNat s.dataLen) (chunksOf_toNat s.dataLen) hfit hu
  obtain ⟨hdigest, hreads'⟩ := runFor_reducer (hrun.executing.of_innerStep hinner) hpc hreduce
  refine ⟨t, hfull, hdone, ?_, hreads'.trans hreads⟩
  rw [hdigest, hlanes]
  rfl

/-- Settles O58: the phases put together are the hash. -/
theorem runComputesTheHash : Obligations.RunComputesTheHash := by
  intro s v h h0 hscript
  obtain ⟨t, ht, hdone, hdigest, -⟩ := runFor_result h h0 hscript
  exact ⟨t, ht, hdone, hdigest⟩

theorem chunksReads_length (a : Quad) (first n : Nat) : (chunksReads a first n).length = 4 * n := by
  induction n with
  | zero => rfl
  | succ n ih => rw [chunksReads_succ, List.length_append, ih]; rfl

theorem runReads_length (seedAddr dataAddr len : Quad) :
    (runReads seedAddr dataAddr len).length = readsOf len.toNat := by
  have hpart : (if tailLenOf len = 0 then [] else [partialAddr dataAddr len]).length =
      if len.toNat % 16 ≠ 0 then 1 else 0 := by
    rw [tailLenOf_eq]
    split_ifs <;> simp_all
  have hfull : (if full16Of len then [lastAddr dataAddr len - 16#64] else []).length =
      if len.toNat / 16 % 2 = 1 then 1 else 0 := by
    rw [full16Of_eq]
    split_ifs <;> simp_all
  simp only [runReads, List.length_append, hpart, hfull, chunksReads_length, List.length_map, List.length_range,
    readsOf]
  omega

/-- Settles O59: the reads of the phases in their order, and the length of the list part by part. -/
theorem runReadsTheListedAddresses : Obligations.RunReadsTheListedAddresses := by
  refine ⟨fun s v h h0 hscript => ?_, runReads_length⟩
  obtain ⟨t, ht, -, -, hreads⟩ := runFor_result h h0 hscript
  exact ⟨t, ht, hreads⟩

end Sys2Proof.Machine
end
